-- ==== Sys2Proof/Word.lean ====
section
/-! DEFINITION. The word types of the block: bytes, the command word and the two data ports. -/

namespace Sys2Proof

/-- A byte, an integer of width 8 (R9). -/
abbrev Byte := BitVec 8

/-- The command word CW, 7 bits (R50). -/
abbrev CommandWord := BitVec 7

/-- The 128 wires of a 16-byte port or register: `din`, `tag`, one half of `key` (R36, R47). -/
abbrev Lanes16 := BitVec 128

/-- The 256 wires of the `key` port (R36, R47). -/
abbrev Lanes32 := BitVec 256

end Sys2Proof
end

