-- ==== Sys2Proof/Machine/Operands.lean ====
section
/-! DEFINITION. Byte strings, byte order and port lanes (R9, R32 to R36, R51 to R54). Integers are natural
numbers, since "all values are unsigned integers" without wrap-around (R8). -/

namespace Sys2Proof.Machine

/-- LE, the little-endian value of a byte string, its first byte least significant (R9, R33). -/
def le : List Byte → Nat
  | [] => 0
  | b :: bs => b.toNat + 256 * le bs

/-- LEBYTES_n, the n bytes of a value, least significant first (R9). -/
def leBytes : Nat → Nat → List Byte
  | 0, _ => []
  | n + 1, v => BitVec.ofNat 8 v :: leBytes n (v / 256)

/-- DIN[j], lane j of the `din` port (R36, R52). -/
def dinByte (din : Lanes16) (j : Nat) : Byte := din.extractLsb' (8 * j) 8

/-- KEY[j], lane j of the `key` port (R36). -/
def keyByte (key : Lanes32) (j : Nat) : Byte := key.extractLsb' (8 * j) 8

/-- TAG byte j, lane j of the register TAG (R21, R34, R36). -/
def tagByte (tag : Lanes16) (j : Nat) : Byte := tag.extractLsb' (8 * j) 8

/-- The message bytes DIN[0..n-1] of a beat, in arrival order (R51, R52). -/
def beatBytes (n : Nat) (din : Lanes16) : List Byte := (List.range n).map (dinByte din)

/-- The key bytes KEY[lo..lo+n-1]. -/
def keyBytes (lo n : Nat) (key : Lanes32) : List Byte :=
  (List.range n).map fun j => keyByte key (lo + j)

/-- The 16 bytes of TAG in the order of the tag (R21, R34). -/
def tagBytes (tag : Lanes16) : List Byte := (List.range 16).map (tagByte tag)

/-- Bytes laid on the lanes of a 16-byte port or register, byte j on bits 8j+7 to 8j (R36). -/
def toLanes16 (bytes : List Byte) : Lanes16 := BitVec.ofNat 128 (le bytes)

/-- Bytes laid on the lanes of the key port (R36). -/
def toLanes32 (bytes : List Byte) : Lanes32 := BitVec.ofNat 256 (le bytes)

/-- The 15 bytes of BUF that hold a byte string from index 0, every further byte 0 (R18, R100). -/
def fillBuf (bytes : List Byte) : Vector Byte 15 := Vector.ofFn fun j => bytes.getD j 0

end Sys2Proof.Machine
end

