-- ==== Sys2Proof/Machine/Reducer.lean ====
section
/-! DEFINITION. The reducer unit: reduction modulo P = 2^130 - 5 (R80 to R86). -/

namespace Sys2Proof.Machine

/-- P, the field prime (R6). -/
def prime : Nat := 2 ^ 130 - 5

/-- FOLD, one folding step (R80). -/
def fold (x : Nat) : Nat := x % 2 ^ 130 + 5 * (x / 2 ^ 130)

/-- FREEZE, the final conditional subtraction, selected by bit 130 of y + 5 (R82). -/
def freeze (y : Nat) : Nat :=
  if (y + 5).testBit 130 then (y + 5) % 2 ^ 130 else y

/-- REDUCE, by its normative line: the remainder modulo P (R83). -/
def reduce (x : Nat) : Nat := x % prime

/-- REDUCE, "how the unit computes it": two folds and a freeze (R83). -/
def reduceByFolding (x : Nat) : Nat := freeze (fold (fold x))

end Sys2Proof.Machine
end

