-- ==== Sys2Proof/Machine/Accumulator.lean ====
section
/-! DEFINITION. The accumulator unit: block formation and multiply-accumulate (R70 to R79). -/

namespace Sys2Proof.Machine

/-- BLOCKINT, the padded integer of a block of 1 to 16 bytes: its little-endian value and a 1 bit
immediately above the data (R54, R70). -/
def blockInt (block : List Byte) : Nat := le block + 2 ^ (8 * block.length)

/-- ADDBLK, exact (R72). -/
def addBlk (a m : Nat) : Nat := a + m

/-- MULR, exact (R73). -/
def mulR (u r : Nat) : Nat := u * r

/-- ABSORB, one block step: add, then multiply, then reduce (R74, R75). -/
def absorb (a m r : Nat) : Nat := reduce (mulR (addBlk a m) r)

end Sys2Proof.Machine
end

