-- ==== Sys2Proof/Machine/Clamper.lean ====
section
/-! DEFINITION. The clamper unit: key split and clamping (R64 to R69). -/

namespace Sys2Proof.Machine

/-- KEYR, the multiplier half of the key, LE(KEY[0..15]) (R64). PRESUMED byte order (log 6). -/
def keyR (key : Lanes32) : BitVec 128 := BitVec.ofNat 128 (le (keyBytes 0 16 key))

/-- KEYS, the addend half of the key, LE(KEY[16..31]) (R65). PRESUMED byte order (log 6). -/
def keyS (key : Lanes32) : BitVec 128 := BitVec.ofNat 128 (le (keyBytes 16 16 key))

/-- CLAMP_MASK (R66). PRESUMED: the spec takes it from general knowledge (GK1, log 6). -/
def clampMask : BitVec 128 := 0x0ffffffc0ffffffc0ffffffc0fffffff#128

/-- CLAMP (R66). -/
def clamp (x : BitVec 128) : BitVec 128 := x &&& clampMask

/-- rc, the multiplier that an UPDATE or FINAL derives from its own key operand (R53, R69). -/
def multiplier (key : Lanes32) : BitVec 128 := clamp (keyR key)

end Sys2Proof.Machine
end

