-- ==== Sys2Proof/Machine/Finalizer.lean ====
section
/-! DEFINITION. The finalizer unit: final reduction, addition of s, tag bytes (R89 to R96). -/

namespace Sys2Proof.Machine

/-- FINALRED, the final full reduction (R89). -/
def finalRed (a : Nat) : Nat := freeze a

/-- ADDS, the addition of s modulo 2^128, without field reduction (R90). -/
def addS (f s : Nat) : Nat := (f + s) % 2 ^ 128

/-- SERIALIZE, the tag bytes of the final integer (R91). -/
def serialize (t : Nat) : List Byte := leBytes 16 t

/-- TAGOF, the whole unit: reduce, then add, then truncate (R92). -/
def tagOf (a s : Nat) : List Byte := serialize (addS (finalRed a) s)

end Sys2Proof.Machine
end

