-- ==== Sys2Proof/Syntax.lean ====
section
/-! DEFINITION. The commands of the block, one constructor per row of spec/opcode_table.json, and the
input pins beside which a command word travels. -/

namespace Sys2Proof

/-- The commands (R49, R55). The data operands DIN and KEY travel beside the command word, "not inside
it" (R50), so a command carries only what its word says. UPDATE has two rows in the table and so two
constructors; every operand value of every constructor is a legal one. -/
inductive Instr where
  /-- NOP, word `0000000` (R98). -/
  | nop
  /-- INIT, word `0100000` (R99). -/
  | init
  /-- UPDATE with 0 to 15 message bytes, word `100llll` (R100). -/
  | update (len : BitVec 4)
  /-- UPDATE with 16 message bytes, word `1010000` (R100). -/
  | update16
  /-- FINAL, word `1100000` (R101). -/
  | final
  deriving DecidableEq, Repr

/-- The number of message bytes a command delivers: the field `len` of its word (R50, R51). -/
def Instr.beatLength : Instr → Nat
  | .nop => 0
  | .init => 0
  | .update len => len.toNat
  | .update16 => 16
  | .final => 0

/-- A command is an UPDATE, of either row of the table. -/
def Instr.isUpdate : Instr → Bool
  | .nop => false
  | .init => false
  | .update _ => true
  | .update16 => true
  | .final => false

/-- The input pins of one instance as the host drives them at one instant (R47). -/
structure Port where
  /-- Reset request. -/
  rst : Bool
  /-- The host offers a command on `cw`, `din`, `key`. -/
  cmdValid : Bool
  /-- Command word. -/
  cw : CommandWord
  /-- Message bytes DIN[0..15], byte j on bits 8j+7 to 8j (R36). -/
  din : Lanes16
  /-- Key bytes KEY[0..31], byte j on bits 8j+7 to 8j (R36). -/
  key : Lanes32
  deriving DecidableEq, Repr

end Sys2Proof
end

