-- ==== Sys2Proof/Config.lean ====
section
/-! DEFINITION. What the spec leaves open: the unspecified values (R10, R28, R30, R102) and the latency
parameter (R139). None of the constants has a body, so no proof can know a value. -/

namespace Sys2Proof

/-- Everything that an unspecified value may depend on: which draw it is, the registers before it and the
input pins. A free value is a function of ALL of it, so that no proof can show that an unspecified
register is independent of the key, the message or its own old content (log 2). -/
structure DrawSite where
  /-- How many draws came before: draws are fresh at each occurrence (R10). -/
  serial : Nat
  acc : BitVec 130
  rc : BitVec 128
  buf : Vector Byte 15
  buflen : BitVec 4
  live : Bool
  tv : Bool
  tag : BitVec 128
  port : Port
  deriving DecidableEq, Repr

/-- unspecified_130 written to ACC. DESIGN CHOICE (log 2). -/
opaque Config.freeAcc : DrawSite → BitVec 130

/-- unspecified_128 written to RC. DESIGN CHOICE (log 2). -/
opaque Config.freeRc : DrawSite → BitVec 128

/-- unspecified_8 written to BUF[j]. DESIGN CHOICE (log 2). -/
opaque Config.freeBufByte : DrawSite → Fin 15 → Byte

/-- unspecified_4 written to BUFLEN. DESIGN CHOICE (log 2). -/
opaque Config.freeBuflen : DrawSite → BitVec 4

/-- unspecified_128 written to TAG. DESIGN CHOICE (log 2). -/
opaque Config.freeTag : DrawSite → BitVec 128

/-- ACC right after power-on reset, unspecified_130 (R28). DESIGN CHOICE (log 1). -/
opaque Config.powerOnAcc : BitVec 130

/-- RC right after power-on reset, unspecified_128 (R28). DESIGN CHOICE (log 1). -/
opaque Config.powerOnRc : BitVec 128

/-- BUF[j] right after power-on reset, unspecified_8 (R28). DESIGN CHOICE (log 1). -/
opaque Config.powerOnBufByte : Fin 15 → Byte

/-- BUFLEN right after power-on reset, unspecified_4 (R28). DESIGN CHOICE (log 1). -/
opaque Config.powerOnBuflen : BitVec 4

/-- TAG right after power-on reset, unspecified_128 (R28). DESIGN CHOICE (log 1). -/
opaque Config.powerOnTag : BitVec 128

/-- LAT(op, len, BUFLEN), the time from acceptance to `cmd_ready` = 1 (R138, R139): open, finite, and by its
type a function of quantities that message length alone determines (log 10). -/
opaque Config.lat : BitVec 2 → BitVec 5 → BitVec 4 → Nat

end Sys2Proof
end

