-- ==== Sys2Proof/WellFormed.lean ====
section
/-! DEFINITION. Which command words are defined, which commands are well formed and which pin values the
host may present (R55, R56, R136). -/

namespace Sys2Proof

/-- The operation field `op` of a command word, bits 6:5 (R50). -/
def CommandWord.op (w : CommandWord) : BitVec 2 := w.extractLsb' 5 2

/-- The length field `len` of a command word, bits 4:0 (R50). -/
def CommandWord.len (w : CommandWord) : BitVec 5 := w.extractLsb' 0 5

/-- A command word is defined, that is, not one of the 108 reserved ones (R50, R55): UPDATE takes a length
of at most 16, the other operations a length of 0. -/
def CommandWord.defined (w : CommandWord) : Bool :=
  if w.op = 0b10#2 then decide (w.len.toNat ≤ 16) else decide (w.len = 0#5)

/-- A command is well formed when its beat has at most 16 bytes (R51). Every value of the type is: the
fields of `Instr` have exactly the values that the rows of the table admit. -/
def Instr.wellFormed (i : Instr) : Bool := decide (i.beatLength ≤ 16)

/-- The pins hold what the host may present (R133, R136): where a command is offered and reset is not
asserted, its word is defined. -/
def Port.wellFormed (p : Port) : Bool := p.rst || !p.cmdValid || p.cw.defined

end Sys2Proof
end

