-- ==== Sys2Proof/Decode.lean ====
section
/-! DEFINITION. The decoder of the 7-bit command word, total, rejecting reserved words by name, the encoder,
and the opcode table as match and mask rows (R50, R55, R56, R58). -/

namespace Sys2Proof

/-- Why a word is no command (R55, R56), with the field `len` it carries. -/
inductive Reserved where
  /-- NOP's operation with a non-zero `len`: 0x01 to 0x1f. -/
  | nopWithLength (len : BitVec 5)
  /-- INIT's operation with a non-zero `len`: 0x21 to 0x3f. -/
  | initWithLength (len : BitVec 5)
  /-- UPDATE with a length of 17 to 31: 0x51 to 0x5f. -/
  | updateTooLong (len : BitVec 5)
  /-- FINAL's operation with a non-zero `len`: 0x61 to 0x7f. -/
  | finalWithLength (len : BitVec 5)
  deriving DecidableEq, Repr

/-- The reserved range that a word which is no command lies in (R55). -/
def reservedRange (w : CommandWord) : Reserved :=
  if w.op = 0b00#2 then .nopWithLength w.len
  else if w.op = 0b01#2 then .initWithLength w.len
  else if w.op = 0b10#2 then .updateTooLong w.len
  else .finalWithLength w.len

/-- The decoder (R58). -/
def decode (w : CommandWord) : Except Reserved Instr :=
  if w = 0x00#7 then .ok .nop
  else if w = 0x20#7 then .ok .init
  else if 0x40#7 ≤ w ∧ w ≤ 0x4f#7 then .ok (.update (w.extractLsb' 0 4))
  else if w = 0x50#7 then .ok .update16
  else if w = 0x60#7 then .ok .final
  else .error (reservedRange w)

/-- The encoder (R58). -/
def encode : Instr → CommandWord
  | .nop => 0x00#7
  | .init => 0x20#7
  | .update len => 0b100#3 ++ len
  | .update16 => 0x50#7
  | .final => 0x60#7

/-- One row of the opcode table: a word w selects it when w AND mask = match (R55). -/
structure TableRow where
  pattern : CommandWord
  mask : CommandWord
  deriving DecidableEq, Repr

/-- A word selects a row (R55). -/
def TableRow.selects (r : TableRow) (w : CommandWord) : Bool := decide (w &&& r.mask = r.pattern)

/-- The row of a command. -/
def tableRow : Instr → TableRow
  | .nop => ⟨0x00#7, 0x7f#7⟩
  | .init => ⟨0x20#7, 0x7f#7⟩
  | .update _ => ⟨0x40#7, 0x70#7⟩
  | .update16 => ⟨0x50#7, 0x7f#7⟩
  | .final => ⟨0x60#7, 0x7f#7⟩

/-- The opcode table, in its own order (R55). -/
def opcodeTable : List TableRow :=
  [tableRow .nop, tableRow .init, tableRow (.update 0#4), tableRow .update16, tableRow .final]

/-- The decoder read from the table's numbering of bits: `w` holds the bits of the instruction, of which the
table gives `nbits` (in whole bytes) and the bits from `nbits` up are 0. The command port has seven wires
(R47), so a number of 128 or more is no command word (log 13). -/
def decodeTableWord (nbits w : Nat) : Option Instr :=
  if w % 2 ^ nbits < 128 then
    match decode (BitVec.ofNat 7 (w % 2 ^ nbits)) with
    | .ok i => some i
    | .error _ => none
  else none

/-- The word of the table row NOP. -/
theorem decode_nop_word : decode 0b0000000#7 = .ok .nop := by decide

/-- The word of the table row INIT. -/
theorem decode_init_word : decode 0b0100000#7 = .ok .init := by decide

/-- `UPDATE len=2` is CW = 0x42 (R63). -/
theorem decode_update_word : decode 0b1000010#7 = .ok (.update 2#4) := by decide

/-- `UPDATE len=16` is CW = 0x50 (R63). -/
theorem decode_update16_word : decode 0b1010000#7 = .ok .update16 := by decide

/-- `FINAL` is CW = 0x60 (R63). -/
theorem decode_final_word : decode 0b1100000#7 = .ok .final := by decide

end Sys2Proof
end

