-- ==== Sys2Proof/Machine/State.lean ====
section
/-! DEFINITION. The state of one instance, plain data (R13), the reasons a step can stop, and the state
after reset (R28, R125). -/

namespace Sys2Proof.Machine

/-- The state of one instance. The first seven fields are the architectural state, "exactly the seven items"
of R13; `port`, `script` and `draws` are the model's own (logs 3, 4): a step is a function of the state
alone, so the inputs of R27 stand in it. -/
structure State where
  /-- ACC, the polynomial accumulator (R14). -/
  acc : BitVec 130
  /-- RC, the clamped multiplier last derived (R16). -/
  rc : BitVec 128
  /-- BUF[0..14], message bytes not yet absorbed (R17). -/
  buf : Vector Byte 15
  /-- BUFLEN, how many bytes of BUF are in use (R17). -/
  buflen : BitVec 4
  /-- LIVE (R20). -/
  live : Bool
  /-- TV, tag valid (R21). -/
  tv : Bool
  /-- TAG, byte j on bits 8j+7 to 8j (R21). -/
  tag : BitVec 128
  /-- MODEL: the input pins as sampled at this instant (R48). -/
  port : Port
  /-- MODEL: what the host will drive on the pins, one element per step, next first (R44, R48). -/
  script : List Port
  /-- MODEL: how many times unspecified values have been drawn (R10). -/
  draws : Nat
  deriving DecidableEq, Repr

/-- The faults of a step: none. "The set of synchronous exceptions of the block is empty" (R111) and a
model's step "has no fault outcome" (R113). An empty type, so a fault can be neither raised nor met. -/
inductive Fault where
  deriving DecidableEq, Repr

/-- The reasons a step is refused. -/
inductive Refusal where
  /-- An instruction of the table without a meaning yet, raised by `exec` alone. Safe: nothing is claimed of
  such a command. No arm of `exec` raises it. -/
  | notModelled (mnemonic : String)
  /-- A reserved command word was accepted, raised by `accept`. Safe: "a model must *refuse* such a command"
  (R56). -/
  | reservedWord (range : Reserved)
  deriving DecidableEq, Repr

/-- Pins on which nothing is asserted: no reset, no command. -/
def idlePort : Port := { rst := false, cmdValid := false, cw := 0#7, din := 0#128, key := 0#256 }

/-- The machine right after reset (R28, R125): LIVE = 0 and TV = 0; the other registers are unspecified,
here uninterpreted constants of Config (DESIGN CHOICE, log 1), since "a model must not assume that reset
zeroes" them. The host has presented nothing yet (log 4). -/
def State.reset : State :=
  { acc := Config.powerOnAcc
    rc := Config.powerOnRc
    buf := Vector.ofFn Config.powerOnBufByte
    buflen := Config.powerOnBuflen
    live := false
    tv := false
    tag := Config.powerOnTag
    port := idlePort
    script := []
    draws := 0 }

end Sys2Proof.Machine
end

