-- ==== Sys2Proof/Machine/Ops.lean ====
section
/-! DEFINITION. The shared operations over the registers: drawing unspecified values, reset, the effects of
INIT, UPDATE and FINAL, and how the host's pins reach the block. No exception exists (R111, R117), so there
is no operation that takes one and none that returns from one. -/

namespace Sys2Proof.Machine

/-- All that the unspecified values drawn now may depend on, with the pins as far as they are read (log 2). -/
def drawSite (pins : Port) (s : State) : DrawSite :=
  { serial := s.draws, acc := s.acc, rc := s.rc, buf := s.buf, buflen := s.buflen, live := s.live, tv := s.tv,
    tag := s.tag, port := pins }

/-- The pins that an UPDATE with n bytes reads: DIN[0..n-1] and KEY[0..15], every other lane taken as 0 (R39,
R40). -/
def updatePins (n : Nat) (p : Port) : Port :=
  { p with din := toLanes16 (beatBytes n p.din), key := toLanes32 (keyBytes 0 16 p.key) }

/-- The pins that FINAL reads: the whole key and no DIN (R39, R101). -/
def finalPins (p : Port) : Port := { p with din := 0#128 }

/-- Fifteen unspecified bytes for BUF, each drawn by itself (R28, R30). -/
def drawBuf (site : DrawSite) : Vector Byte 15 := Vector.ofFn (Config.freeBufByte site)

/-- Reset (R125): LIVE and TV become 0 and every other register unspecified, whatever command is offered
(R116) or was in flight (R126; log 7). -/
def resetRegisters (s : State) : State :=
  { s with
    acc := Config.freeAcc (drawSite s.port s)
    rc := Config.freeRc (drawSite s.port s)
    buf := drawBuf (drawSite s.port s)
    buflen := Config.freeBuflen (drawSite s.port s)
    live := false
    tv := false
    tag := Config.freeTag (drawSite s.port s)
    draws := s.draws + 1 }

/-- The effect of INIT (R99, R29): TAG is not written. -/
def startMessage (s : State) : State :=
  { s with acc := 0#130, rc := 0#128, buf := fillBuf [], buflen := 0#4, live := true, tv := false }

/-- The pending bytes BUF[0..BUFLEN-1], in arrival order (R17). -/
def pendingBytes (s : State) : List Byte := s.buf.toList.take s.buflen.toNat

/-- T = BUF[0..BUFLEN-1] ++ DIN[0..n-1] (R100). -/
def gatheredBytes (n : Nat) (s : State) : List Byte := pendingBytes s ++ beatBytes n s.port.din

/-- What is left of T for BUF: everything, or what follows its first block (R100). -/
def leftover (t : List Byte) : List Byte := if 16 ≤ t.length then t.drop 16 else t

/-- The accumulator after T: one block absorbed, the first 16 bytes, when T has that many (R100). -/
def absorbFirst (acc : BitVec 130) (t : List Byte) (rc : BitVec 128) : BitVec 130 :=
  if 16 ≤ t.length then BitVec.ofNat 130 (absorb acc.toNat (blockInt (t.take 16)) rc.toNat) else acc

/-- UPDATE with n bytes on a live state (R100): LIVE, TV and TAG are not written. -/
def updateLive (n : Nat) (s : State) : State :=
  { s with
    acc := absorbFirst s.acc (gatheredBytes n s) (multiplier s.port.key)
    rc := multiplier s.port.key
    buf := fillBuf (leftover (gatheredBytes n s))
    buflen := BitVec.ofNat 4 (leftover (gatheredBytes n s)).length }

/-- UPDATE with n bytes and LIVE = 0 (R102): it completes, RC is CLAMP(KEYR(KEY)), and ACC, BUF and BUFLEN are unspecified;
LIVE, TV and TAG are not written (log 5). -/
def updateSpent (n : Nat) (s : State) : State :=
  { s with
    acc := Config.freeAcc (drawSite (updatePins n s.port) s)
    rc := multiplier s.port.key
    buf := drawBuf (drawSite (updatePins n s.port) s)
    buflen := Config.freeBuflen (drawSite (updatePins n s.port) s)
    draws := s.draws + 1 }

/-- UPDATE with n bytes. No command tests LIVE in the block (R20); the model does, to tell specified results
(R100) from unspecified ones (R102; log 5). -/
def updateBeat (n : Nat) (s : State) : State := if s.live then updateLive n s else updateSpent n s

/-- The accumulator that FINAL hands to the finalizer: the trailing partial block absorbed if there is one
(R101). -/
def closingAcc (s : State) : Nat :=
  if 0 < s.buflen.toNat then absorb s.acc.toNat (blockInt (pendingBytes s)) (multiplier s.port.key).toNat
  else s.acc.toNat

/-- The tag that FINAL computes on a live state (R101). -/
def closingTag (s : State) : BitVec 128 := toLanes16 (tagOf (closingAcc s) (keyS s.port.key).toNat)

/-- FINAL (R101): TAG is written, TV set, LIVE cleared, and ACC, RC, BUF, BUFLEN become unspecified (R30).
With LIVE = 0 the value of TAG is unspecified too (R102; log 5). -/
def closeMessage (s : State) : State :=
  { s with
    acc := Config.freeAcc (drawSite (finalPins s.port) s)
    rc := Config.freeRc (drawSite (finalPins s.port) s)
    buf := drawBuf (drawSite (finalPins s.port) s)
    buflen := Config.freeBuflen (drawSite (finalPins s.port) s)
    live := false
    tv := true
    tag := if s.live then closingTag s else Config.freeTag (drawSite (finalPins s.port) s)
    draws := s.draws + 1 }

/-- The pins take the values `p`, and `rest` is what the host drives later (R48). -/
def present (p : Port) (rest : List Port) (s : State) : State := { s with port := p, script := rest }

/-- The pins take the next values of the host's script; once it is used up the host offers nothing more, which
is `cmd_valid` = 0 (R48; log 4). -/
def nextPins (s : State) : State :=
  match s.script with
  | [] => present idlePort [] s
  | p :: rest => present p rest s

/-- The pins of a host that offers one command: its word and its operands (R48, R97). -/
def commandPort (w : CommandWord) (din : Lanes16) (key : Lanes32) : Port :=
  { rst := false, cmdValid := true, cw := w, din := din, key := key }

/-- The pins of a host that asserts reset (R125). -/
def resetPort : Port := { idlePort with rst := true }

/-- How many blocks a command absorbs: a function of `len` and BUFLEN alone (R79, R103). -/
def absorbCount (i : Instr) (buflen : BitVec 4) : Nat :=
  match i with
  | .nop => 0
  | .init => 0
  | .update len => if 16 ≤ buflen.toNat + len.toNat then 1 else 0
  | .update16 => 1
  | .final => if 0 < buflen.toNat then 1 else 0

/-- The time from acceptance of a command to `cmd_ready` = 1, as an open function of `op`, `len` and BUFLEN
(R138, R139; log 10). -/
def commandLatency (i : Instr) (s : State) : Nat :=
  Config.lat (CommandWord.op (encode i)) (CommandWord.len (encode i)) s.buflen

end Sys2Proof.Machine
end

