-- ==== Sys2Proof/Machine/Commands.lean ====
section
/-! DEFINITION. The meanings of the commands NOP, INIT, UPDATE and FINAL (R97 to R102). Each one answers a
next state from every state: the step "never faults and never blocks" (R97). -/

namespace Sys2Proof.Machine

/-- NOP: "no register is written" (R98). -/
def execNop (s : State) : Host.Outcome State Fault Refusal := .next s

/-- INIT (R99). -/
def execInit (s : State) : Host.Outcome State Fault Refusal := .next (startMessage s)

/-- UPDATE with 0 to 15 bytes (R100, R102). -/
def execUpdate (len : BitVec 4) (s : State) : Host.Outcome State Fault Refusal :=
  .next (updateBeat len.toNat s)

/-- UPDATE with 16 bytes (R100, R102). -/
def execUpdate16 (s : State) : Host.Outcome State Fault Refusal := .next (updateBeat 16 s)

/-- FINAL (R101, R102). -/
def execFinal (s : State) : Host.Outcome State Fault Refusal := .next (closeMessage s)

end Sys2Proof.Machine
end

