-- ==== Sys2Proof/Machine/Accept.lean ====
section
/-! DEFINITION. What the block does at one instant with the pins as they are: reset, accept a command, or
nothing (R48, R116). -/

namespace Sys2Proof.Machine

/-- One event. Reset has priority over everything (R116); an offered command is accepted and executes exactly
once (R48), a reserved word is refused (R56); with `cmd_valid` = 0 "nothing happens" (R48). -/
def accept (s : State) : Host.Outcome State Fault Refusal :=
  if s.port.rst then .next (resetRegisters s)
  else if s.port.cmdValid then
    match decode s.port.cw with
    | .ok i => exec i s
    | .error r => .refused (.reservedWord r)
  else .next s

end Sys2Proof.Machine
end

