-- ==== Sys2Proof/Machine/Step.lean ====
section
/-! DEFINITION. One step of the machine: the next pin values of the host, and what the block does with them
(R97). -/

namespace Sys2Proof.Machine

/-- One step (R97): the host drives its next pin values and the block takes them (logs 4, 9). -/
def step (s : State) : Host.Outcome State Fault Refusal := accept (nextPins s)

/-- The state with a command of the opcode table as the next thing the host offers: its word on `cw`, its
operands DIN and KEY all zero, ahead of the rest of the script (log 4). -/
def State.withFetchWord (s : State) (nbits w : Nat) : State :=
  { s with script := commandPort (BitVec.ofNat 7 (w % 2 ^ nbits)) 0#128 0#256 :: s.script }

end Sys2Proof.Machine
end

