-- ==== Sys2Proof/Machine/Flags.lean ====
section
/-! DEFINITION. The status word and the outputs, pure functions of the state; reading one has no effect
(R21, R23, R41, R47). There are no condition codes, carry or overflow flags (R21). -/

namespace Sys2Proof.Machine

/-- A flag as one bit. -/
def flagBit (b : Bool) : BitVec 1 := BitVec.ofBool b

/-- STATUS = TV in bit 5, LIVE in bit 4, BUFLEN in bits 3:0 (R23). -/
def statusOut (s : State) : BitVec 6 := flagBit s.tv ++ flagBit s.live ++ s.buflen

/-- The `tag` output port: the register TAG (R47). -/
def tagOut (s : State) : Lanes16 := s.tag

/-- The tag as its 16 bytes (R21, R91). -/
def tagOutBytes (s : State) : List Byte := tagBytes (tagOut s)

/-- The `cmd_ready` output between two steps: "it is 0 while a command executes" (R47), and between steps none
does (R43; log 8). -/
def cmdReadyOut (_ : State) : Bool := true

end Sys2Proof.Machine
end

