-- ==== Sys2Proof/Machine/Instances.lean ====
section
/-! DEFINITION. Several instances: "the product of N copies of the one-instance machine, interleaved in any
order" (R122). -/

namespace Sys2Proof.Machine

/-- N_INSTANCES instances, one state each; the number of them is the length of the list (R122; log 11). -/
abbrev Instances := List State

/-- One event at instance k; an index with no instance changes nothing (R122). DESIGN CHOICE (log 11): where the
event is a reserved word the whole system is refused, and no state of the other instances is answered. The spec says
only that the run is marked as refused (R56) and that a command to one instance changes nothing in another (R122);
it does not say how the others go on. Safe: nothing is claimed of a system once one of its instances is refused. -/
def stepInstance (k : Nat) (all : Instances) : Host.Outcome Instances Fault Refusal :=
  match all[k]? with
  | none => .next all
  | some s =>
    match step s with
    | .next t => .next (all.set k t)
    | .fault r => .fault r
    | .refused r => .refused r

end Sys2Proof.Machine
end

