-- ==== Sys2Proof/Machine/Mac.lean ====
section
/-! DEFINITION. What the block computes as a function of key and message (R15, R107), and the pseudo-commands
CHUNK and AUTH as sequences of commands (R62, R106). -/

namespace Sys2Proof.Machine

/-- Block i of a message, its bytes 16·i to 16·i+15 or as many as there are (R15). -/
def messageBlock (msg : List Byte) (i : Nat) : List Byte := (msg.drop (16 * i)).take 16

/-- H_i, the accumulator after the first i blocks of a message: H_0 = 0 and
H_{i+1} = ABSORB(H_i, BLOCKINT(block i), rc) (R15, R107). -/
def chainValue (rc : Nat) (msg : List Byte) : Nat → Nat
  | 0 => 0
  | i + 1 => absorb (chainValue rc msg i) (blockInt (messageBlock msg i)) rc

/-- The bytes of a message after its last full block (R107). -/
def tailBytes (msg : List Byte) : List Byte := msg.drop (16 * (msg.length / 16))

/-- The accumulator after a whole message, its partial block included (R107). -/
def messageValue (rc : Nat) (msg : List Byte) : Nat :=
  if msg.length % 16 ≠ 0 then
    absorb (chainValue rc msg (msg.length / 16)) (blockInt (tailBytes msg)) rc
  else chainValue rc msg (msg.length / 16)

/-- MAC(K, M), "the function the block computes" (R107). -/
def mac (key : Lanes32) (msg : List Byte) : List Byte :=
  tagOf (messageValue (multiplier key).toNat msg) (keyS key).toNat

/-- The pins that offer NOP, which reads neither DIN nor KEY (R98). -/
def nopPort (din : Lanes16) (key : Lanes32) : Port := commandPort (encode .nop) din key

/-- The pins that offer INIT, which reads neither DIN nor KEY (R99). -/
def initPort (din : Lanes16) (key : Lanes32) : Port := commandPort (encode .init) din key

/-- The UPDATE of n bytes, for n up to 16 (R58). -/
def updateOf (n : Nat) : Instr := if n < 16 then .update (BitVec.ofNat 4 n) else .update16

/-- The pins that offer one beat of at most 16 message bytes (R52, R59). -/
def beatPort (bytes : List Byte) (key : Lanes32) : Port :=
  commandPort (encode (updateOf bytes.length)) (toLanes16 bytes) key

/-- The pins that offer FINAL, which reads no DIN (R101). -/
def finalPort (din : Lanes16) (key : Lanes32) : Port := commandPort (encode .final) din key

/-- The beats of CHUNK: floor(L/16) beats of 16 bytes and, if L mod 16 ≠ 0, one of the rest (R62). -/
def chunkBeats (bytes : List Byte) : List (List Byte) :=
  (List.range (bytes.length / 16)).map (messageBlock bytes) ++
    (if bytes.length % 16 ≠ 0 then [tailBytes bytes] else [])

/-- CHUNK (R62). -/
def chunk (key : Lanes32) (bytes : List Byte) : List Port :=
  (chunkBeats bytes).map fun b => beatPort b key

/-- AUTH: INIT, CHUNK, FINAL (R62, R106). -/
def auth (key : Lanes32) (msg : List Byte) : List Port :=
  initPort 0#128 0#256 :: chunk key msg ++ [finalPort 0#128 key]

end Sys2Proof.Machine
end

