-- ==== Sys2Proof/Safety.lean ====
section
/-! DEFINITION. What counts as a good state and a good run: the invariant of the registers (R14, R18, R68), the
accumulator invariant of a message (R15), and the contract that the host keeps (R22, R130 to R136). -/

namespace Sys2Proof.Machine

/-- A step, or an instruction, answers a next state. -/
def Completes (o : Host.Outcome State Fault Refusal) : Prop := ∃ t, o = .next t

/-- k steps of the machine, stopping at the first that answers no next state (R44). -/
def runScript : Nat → State → Host.Outcome State Fault Refusal
  | 0, s => .next s
  | k + 1, s =>
    match step s with
    | .next t => runScript k t
    | .fault r => .fault r
    | .refused r => .refused r

/-- What holds of the registers whenever LIVE = 1: ACC is canonical (R14), RC[127:124] = 0 (R13, R68) and the
unused bytes of BUF are 0 (R18). -/
def State.Canonical (s : State) : Prop :=
  s.acc.toNat < prime ∧ s.rc.toNat < 2 ^ 124 ∧ ∀ j : Fin 15, s.buflen.toNat ≤ j.val → s.buf[j] = 0#8

/-- The invariant of the machine: a live state is canonical, and LIVE and TV are never both 1 (R20, R21). -/
def State.Sound (s : State) : Prop :=
  (s.live = true → s.Canonical) ∧ ¬ (s.live = true ∧ s.tv = true)

/-- The accumulator invariant (R15): the state that INIT and then UPDATEs with the key `key`, delivering the
bytes `msg`, must leave; `updated` says whether at least one UPDATE was executed. -/
def State.Tracks (key : Lanes32) (msg : List Byte) (updated : Bool) (s : State) : Prop :=
  s.acc.toNat = chainValue (multiplier key).toNat msg (msg.length / 16) ∧
  s.buflen.toNat = msg.length % 16 ∧
  s.buf = fillBuf (tailBytes msg) ∧
  s.rc = (if updated then multiplier key else 0#128) ∧
  s.live = true

/-- The command that pin values offer, if any: reset is not asserted, `cmd_valid` is 1 and the word is defined. -/
def offeredCommand (p : Port) : Option Instr :=
  if p.rst || !p.cmdValid then none
  else
    match decode p.cw with
    | .ok i => some i
    | .error _ => none

/-- The message bytes that pin values deliver (R52); only an UPDATE has any. -/
def deliveredBytes (p : Port) : List Byte :=
  match offeredCommand p with
  | some i => beatBytes i.beatLength p.din
  | none => []

/-- The message that a sequence of pin values delivers, in order (R108). -/
def deliveredMessage (ps : List Port) : List Byte := ps.flatMap deliveredBytes

end Sys2Proof.Machine

namespace Sys2Proof

/-- Pin values that may stand between the INIT and the FINAL of a message under the key `key`: nothing is
offered, or NOP, or an UPDATE with that key (R22, R131). -/
def Port.inMessage (key : Lanes32) (p : Port) : Prop :=
  p.rst = false ∧
    (p.cmdValid = false ∨ Machine.offeredCommand p = some .nop ∨
      ∃ i, Machine.offeredCommand p = some i ∧ i.isUpdate = true ∧ p.key = key)

end Sys2Proof

namespace Sys2Proof.Machine

/-- Where the host stands in its contract: no message is open, or one is, under a key once an UPDATE named
it. -/
inductive Phase where
  | closed
  | opened (key : Option Lanes32)
  deriving DecidableEq, Repr

/-- LIVE as the contract knows it (R20). -/
def Phase.live : Phase → Bool
  | .closed => false
  | .opened _ => true

/-- The key is the one the message already has, or the message has none yet (R131). -/
def keyAgrees (seen : Option Lanes32) (key : Lanes32) : Bool :=
  match seen with
  | none => true
  | some k => decide (k = key)

/-- The contract's next phase after pin values, or none where they break it: the grammar
`(NOP* INIT (NOP | UPDATE)* FINAL)*` (R22, R130), one key per message (R131), no reserved word (R136).
Reset is allowed at any time (R123, R125). -/
def Phase.after (ph : Phase) (p : Port) : Option Phase :=
  if p.rst then some .closed
  else if !p.cmdValid then some ph
  else
    match decode p.cw, ph with
    | .error _, _ => none
    | .ok .nop, _ => some ph
    | .ok .init, .closed => some (.opened none)
    | .ok .init, .opened _ => none
    | .ok (.update _), .closed => none
    | .ok (.update _), .opened k => if keyAgrees k p.key then some (.opened (some p.key)) else none
    | .ok .update16, .closed => none
    | .ok .update16, .opened k => if keyAgrees k p.key then some (.opened (some p.key)) else none
    | .ok .final, .closed => none
    | .ok .final, .opened k => if keyAgrees k p.key then some .closed else none

/-- The phase after a whole sequence of pin values, or none where the host breaks its contract. -/
def Phase.afterAll (ph : Phase) : List Port → Option Phase
  | [] => some ph
  | p :: ps =>
    match ph.after p with
    | some ph' => ph'.afterAll ps
    | none => none

end Sys2Proof.Machine
end

