-- ==== Sys2Proof/Certificates/Slice0/Obligations.lean ====
section
/-! DEFINITION. The statements about the machine that are to be proved, each from the rules of the spec. -/

namespace Sys2Proof.Certificates

/-- Byte j of T = BUF[0..BUFLEN-1] ++ DIN[0..], read register by register (R100). -/
def arrivedByte (s : Machine.State) (j : Nat) : Byte :=
  if j < s.buflen.toNat then s.buf.toList.getD j 0#8 else Machine.dinByte s.port.din (j - s.buflen.toNat)

/-- The little-endian value of n bytes given by their positions (R9). -/
def sumOfBytes (f : Nat → Byte) (n : Nat) : Nat := ∑ j ∈ Finset.range n, (f j).toNat * 2 ^ (8 * j)

/-- A command leaves the model's own input fields alone. -/
def sameInputs (s t : Machine.State) : Prop := t.port = s.port ∧ t.script = s.script

/-- Two states hold the same in all seven architectural registers (R13). -/
def sameRegisters (s t : Machine.State) : Prop :=
  t.acc = s.acc ∧ t.rc = s.rc ∧ t.buf = s.buf ∧ t.buflen = s.buflen ∧ t.live = s.live ∧ t.tv = s.tv ∧
    t.tag = s.tag

/-- Pin values that offer nothing, or NOP (R22, R48). -/
def quiet (p : Port) : Prop :=
  p.rst = false ∧ (p.cmdValid = false ∨ Machine.offeredCommand p = some .nop)

end Sys2Proof.Certificates

section
open Sys2Proof Sys2Proof.Machine Sys2Proof.Certificates

/-! ### Encoding -/

/-- The words of 95_test_vectors.md section 2.6, written out bit by bit, decode to what they stand for. -/
def Obligations.DecoderReadsWrittenOutWords : Prop :=
  decode 0b0000000#7 = .ok .nop ∧ decode 0b0100000#7 = .ok .init ∧
  decode 0b1000000#7 = .ok (.update 0#4) ∧ decode 0b1000001#7 = .ok (.update 1#4) ∧
  decode 0b1001111#7 = .ok (.update 15#4) ∧ decode 0b1010000#7 = .ok .update16 ∧
  decode 0b1100000#7 = .ok .final ∧
  decode 0b0000001#7 = .error (.nopWithLength 1#5) ∧ decode 0b0011111#7 = .error (.nopWithLength 31#5) ∧
  decode 0b0100001#7 = .error (.initWithLength 1#5) ∧ decode 0b0111111#7 = .error (.initWithLength 31#5) ∧
  decode 0b1010001#7 = .error (.updateTooLong 17#5) ∧ decode 0b1011111#7 = .error (.updateTooLong 31#5) ∧
  decode 0b1100001#7 = .error (.finalWithLength 1#5) ∧ decode 0b1111111#7 = .error (.finalWithLength 31#5)

/-- R58: the encoder's words, the decoder's chain of cases, and that each is the inverse of the other. UPDATE of
n bytes is `update n` for n < 16 and `update16` for 16. -/
def Obligations.DecodeAndEncodeAgree : Prop :=
  (encode .nop = 0x00#7 ∧ encode .init = 0x20#7 ∧ encode .final = 0x60#7 ∧
    ∀ i : Instr, i.isUpdate = true → (encode i).toNat = 0x40 + i.beatLength) ∧
  (∀ w : CommandWord,
    if w.toNat = 0x00 then decode w = .ok .nop
    else if w.toNat = 0x20 then decode w = .ok .init
    else if 0x40 ≤ w.toNat ∧ w.toNat ≤ 0x50 then
      ∃ i : Instr, decode w = .ok i ∧ i.isUpdate = true ∧ i.beatLength = w.toNat - 0x40
    else if w.toNat = 0x60 then decode w = .ok .final
    else ∃ r, decode w = .error r) ∧
  (∀ i : Instr, decode (encode i) = .ok i) ∧
  (∀ (w : CommandWord) (i : Instr), decode w = .ok i → encode i = w)

/-- R55: the rows of the opcode table do not overlap, a word selects a row exactly when it is a command, and that
row is the command's own; 20 words are defined. -/
def Obligations.OpcodeTableClassifiesEveryWord : Prop :=
  (∀ w : CommandWord, (opcodeTable.filter fun r => r.selects w).length ≤ 1) ∧
  (∀ (w : CommandWord) (i : Instr), decode w = .ok i →
    opcodeTable.filter (fun r => r.selects w) = [tableRow i] ∧ CommandWord.defined w = true) ∧
  (∀ (w : CommandWord) (r : Reserved), decode w = .error r →
    opcodeTable.filter (fun r => r.selects w) = [] ∧ CommandWord.defined w = false) ∧
  ((List.range 128).countP fun n => CommandWord.defined (BitVec.ofNat 7 n)) = 20

/-! ### The step -/

/-- When the pins that the host drives next offer a defined word, the step is `exec` of the decoded command on the
state with those pins presented, and it takes exactly that element off the script (R48, R97). -/
def Obligations.StepRunsDecodedInstruction : Prop :=
  ∀ (s : State) (p : Port) (rest : List Port) (i : Instr),
    s.script = p :: rest → p.rst = false → p.cmdValid = true → decode p.cw = .ok i →
    step s = exec i { s with port := p, script := rest } ∧
    ∀ t, step s = .next t → t.port = p ∧ t.script = rest

/-- A word of the opcode table placed by `withFetchWord` is run by the very next step, with operands of zeros,
and the rest of the script stays. -/
def Obligations.PlacedTableWordRunsNext : Prop :=
  ∀ (s : State) (nbits w : Nat) (i : Instr), decodeTableWord nbits w = some i →
    step (s.withFetchWord nbits w) = exec i { s with port := commandPort (encode i) 0#128 0#256 }

/-- R56: a reserved word, once accepted, is refused under its own name, and nothing else is ever refused. -/
def Obligations.ReservedWordsAreRefused : Prop :=
  (∀ (s : State) (p : Port) (rest : List Port),
    s.script = p :: rest → p.rst = false → p.cmdValid = true → p.cw.defined = false →
    ∃ r, step s = .refused (.reservedWord r)) ∧
  (∀ (s : State) (r : Refusal), step s = .refused r →
    ∃ p rest, s.script = p :: rest ∧ p.rst = false ∧ p.cmdValid = true ∧ p.cw.defined = false)

/-- R48: with `cmd_valid` = 0, or when the host drives nothing more, no register changes. -/
def Obligations.NothingHappensWithoutCommand : Prop :=
  ∀ s : State,
    (s.script = [] ∨ ∃ p rest, s.script = p :: rest ∧ p.rst = false ∧ p.cmdValid = false) →
    ∃ t, step s = .next t ∧ sameRegisters s t ∧ t.draws = s.draws ∧ t.script = s.script.tail

/-- R116, R125, R126: reset wins over whatever is offered with it, even a reserved word, and leaves LIVE = 0 and
TV = 0; of the other registers nothing is claimed. -/
def Obligations.ResetClearsBothFlags : Prop :=
  ∀ (s : State) (p : Port) (rest : List Port), s.script = p :: rest → p.rst = true →
    ∃ t, step s = .next t ∧ t.live = false ∧ t.tv = false ∧ t.script = rest

/-- R97, R111, R140: every command completes from every state, and a step completes unless the host presents a
reserved word. -/
def Obligations.EveryCommandCompletes : Prop :=
  (∀ (i : Instr) (s : State), Completes (exec i s)) ∧
  (∀ s : State, (∀ p rest, s.script = p :: rest → p.wellFormed = true) → Completes (step s))

/-! ### Reset and the invariant of the machine -/

/-- R28, R23: what the spec gives of the state after reset, and the two upper bits of STATUS in it. That the
registers it leaves unspecified are constants of Config is the model's choice (log 1). -/
def Obligations.ResetStateFlagsAreClear : Prop :=
  State.reset.live = false ∧ State.reset.tv = false ∧ (statusOut State.reset).extractLsb' 4 2 = 0b00#2

/-- The state after reset meets the invariant that every step keeps. -/
def Obligations.ResetStateIsSound : Prop := State.reset.Sound

/-- R14, R18, R68, R20, R21: every step, from every state that meets it, keeps: a live state has ACC < P,
RC[127:124] = 0 and zero fill in BUF, and LIVE and TV are never both 1. -/
def Obligations.StepsKeepSoundness : Prop :=
  ∀ s t : State, s.Sound → step s = .next t → t.Sound

/-! ### The commands -/

/-- R98: NOP is the all-zero word, completes in every state and writes nothing. -/
def Obligations.NopChangesNothing : Prop :=
  encode .nop = 0x00#7 ∧ ∀ s : State, exec .nop s = .next s

/-- R99: INIT completes in every state; ACC, RC, BUF, BUFLEN are 0, LIVE is 1, TV is 0, TAG and the inputs are
as before, STATUS is 0b010000, and INIT twice equals INIT once. -/
def Obligations.InitStartsFreshMessage : Prop :=
  encode .init = 0x20#7 ∧ ∀ s : State, ∃ t, exec .init s = .next t ∧
    t.acc = 0#130 ∧ t.rc = 0#128 ∧ (∀ j : Fin 15, t.buf[j] = 0#8) ∧ t.buflen = 0#4 ∧
    t.live = true ∧ t.tv = false ∧ t.tag = s.tag ∧ sameInputs s t ∧ t.draws = s.draws ∧
    statusOut t = 0b010000#6 ∧ exec .init t = .next t

/-- R100: UPDATE of 0 to 16 bytes on a live state, register by register and byte by byte, with its frame: LIVE,
TV, TAG and the inputs are as before. -/
def Obligations.UpdateFoldsBeatIntoAccumulator : Prop :=
  ∀ (i : Instr) (s : State), i.isUpdate = true → s.live = true →
    (encode i).toNat = 0x40 + i.beatLength ∧ i.beatLength ≤ 16 ∧
    ∃ t, exec i s = .next t ∧
      t.rc = clamp (keyR s.port.key) ∧
      (if 16 ≤ s.buflen.toNat + i.beatLength then
        t.acc.toNat = (s.acc.toNat + (sumOfBytes (arrivedByte s) 16 + 2 ^ 128)) *
          (clamp (keyR s.port.key)).toNat % (2 ^ 130 - 5) ∧
        t.buflen.toNat = s.buflen.toNat + i.beatLength - 16 ∧
        ∀ j : Fin 15, t.buf[j] =
          if j.val < s.buflen.toNat + i.beatLength - 16 then arrivedByte s (16 + j.val) else 0#8
      else
        t.acc = s.acc ∧
        t.buflen.toNat = s.buflen.toNat + i.beatLength ∧
        ∀ j : Fin 15, t.buf[j] =
          if j.val < s.buflen.toNat + i.beatLength then arrivedByte s j.val else 0#8) ∧
      t.live = true ∧ t.tv = s.tv ∧ t.tag = s.tag ∧ sameInputs s t ∧ t.draws = s.draws

/-- R101: FINAL on a live state: TAG is the little-endian form of ((a mod P) + s) mod 2^128, where a has the
trailing partial block absorbed if there is one; TV = 1, LIVE = 0, the inputs as before. Of ACC, RC, BUF and
BUFLEN, which become unspecified, nothing is claimed. -/
def Obligations.FinalProducesTag : Prop :=
  encode .final = 0x60#7 ∧ ∀ s : State, s.live = true →
    ∃ t, exec .final s = .next t ∧
      t.tag.toNat =
        ((if 0 < s.buflen.toNat then
            (s.acc.toNat + (sumOfBytes (arrivedByte s) s.buflen.toNat + 2 ^ (8 * s.buflen.toNat))) *
              (clamp (keyR s.port.key)).toNat % (2 ^ 130 - 5)
          else s.acc.toNat) % (2 ^ 130 - 5) + (keyS s.port.key).toNat) % 2 ^ 128 ∧
      t.tv = true ∧ t.live = false ∧ sameInputs s t

/-- R102: UPDATE and FINAL with LIVE = 0 complete, without a trap. After UPDATE, RC is CLAMP(KEYR(KEY)), LIVE
is 0, and TV, TAG and the inputs are as before; after FINAL, TV = 1, LIVE = 0 and the inputs are as before.
Of the values R102 leaves unspecified nothing is claimed; that they are drawn afresh is the model's choice
(log 5). -/
def Obligations.SpentStateCommandsComplete : Prop :=
  (∀ (i : Instr) (s : State), i.isUpdate = true → s.live = false →
    ∃ t, exec i s = .next t ∧ t.rc = clamp (keyR s.port.key) ∧ t.live = false ∧ t.tv = s.tv ∧
      t.tag = s.tag ∧ sameInputs s t) ∧
  (∀ s : State, s.live = false →
    ∃ t, exec .final s = .next t ∧ t.tv = true ∧ t.live = false ∧ sameInputs s t)

/-- The frame of all commands, by the access table of R24: what each leaves unchanged when it answers a next state,
the model's input fields among it. There is no memory (R31). -/
def Obligations.CommandsChangeOnlyTheirRegisters : Prop :=
  ∀ (i : Instr) (s t : State), exec i s = .next t →
    sameInputs s t ∧
    (i ≠ .final → t.tag = s.tag) ∧
    (i ≠ .init → i ≠ .final → t.live = s.live ∧ t.tv = s.tv) ∧
    (i = .nop → sameRegisters s t ∧ t.draws = s.draws) ∧
    (i ≠ .final → s.live = true → t.draws = s.draws) ∧
    (i.isUpdate = true → s.live = true → s.buflen.toNat + i.beatLength < 16 → t.acc = s.acc)

/-- R41: an UPDATE of no bytes on a live state that meets the invariant changes no register except RC, which it
sets to CLAMP(KEYR(KEY)); repeating it changes nothing further. -/
def Obligations.EmptyBeatChangesOnlyMultiplier : Prop :=
  ∀ s : State, s.Sound → s.live = true →
    exec (.update 0#4) s = .next { s with rc := clamp (keyR s.port.key) } ∧
    exec (.update 0#4) { s with rc := clamp (keyR s.port.key) } =
      .next { s with rc := clamp (keyR s.port.key) }

/-- R94: FINAL on a live state that absorbed no block gives the 16 bytes KEY[16..31] unchanged. -/
def Obligations.EmptyMessageTagIsKeyHalf : Prop :=
  ∀ s : State, s.live = true → s.acc = 0#130 → s.buflen = 0#4 →
    ∃ t, exec .final s = .next t ∧ tagOutBytes t = (List.range 16).map fun j => keyByte s.port.key (16 + j)

/-- R40: lanes DIN[j] with j ≥ len and KEY[j] with j ≥ 16 do not matter to an UPDATE, in any state: whatever
they hold, every register becomes the same. -/
def Obligations.UpdateIgnoresUnreadLanes : Prop :=
  ∀ (i : Instr) (s : State) (din : Lanes16) (key : Lanes32), i.isUpdate = true →
    (∀ j, j < i.beatLength → dinByte din j = dinByte s.port.din j) →
    (∀ j, j < 16 → keyByte key j = keyByte s.port.key j) →
    ∃ t, exec i s = .next t ∧
      exec i { s with port := { s.port with din := din, key := key } } =
        .next { t with port := { s.port with din := din, key := key } }

/-- U15, R98, R99, R101: NOP and INIT read neither DIN nor KEY, and FINAL reads no DIN. -/
def Obligations.OtherCommandsIgnoreUnreadPorts : Prop :=
  (∀ (i : Instr) (s : State) (din : Lanes16) (key : Lanes32), i = .nop ∨ i = .init →
    ∃ t, exec i s = .next t ∧
      exec i { s with port := { s.port with din := din, key := key } } =
        .next { t with port := { s.port with din := din, key := key } }) ∧
  (∀ (s : State) (din : Lanes16),
    ∃ t, exec .final s = .next t ∧
      exec .final { s with port := { s.port with din := din } } =
        .next { t with port := { s.port with din := din } })

/-- R16: no command reads the value RC had at its start. On a live state, UPDATE and INIT answer the same state
whatever RC held, and FINAL the same TAG, TV and LIVE. -/
def Obligations.OldMultiplierIsNeverRead : Prop :=
  ∀ (s : State) (x : BitVec 128), s.live = true →
    (∀ i : Instr, i.isUpdate = true ∨ i = .init →
      exec i { s with rc := x } = exec i s ∧ Completes (exec i s)) ∧
    ∃ t u, exec .final s = .next t ∧ exec .final { s with rc := x } = .next u ∧
      u.tag = t.tag ∧ u.tv = t.tv ∧ u.live = t.live

/-- R18: no command reads a byte of BUF at an index of BUFLEN or more. On a live state, UPDATE and INIT answer the
same state whatever those bytes hold, and FINAL the same TAG. -/
def Obligations.UnusedBufferBytesAreNotRead : Prop :=
  ∀ (s : State) (buf : Vector Byte 15), s.live = true →
    (∀ j : Fin 15, j.val < s.buflen.toNat → buf[j] = s.buf[j]) →
    (∀ i : Instr, i.isUpdate = true ∨ i = .init →
      exec i { s with buf := buf } = exec i s ∧ Completes (exec i s)) ∧
    ∃ t u, exec .final s = .next t ∧ exec .final { s with buf := buf } = .next u ∧ u.tag = t.tag

/-- R103: what a live state shows on STATUS after NOP, INIT or UPDATE depends on STATUS and on `len` alone, never
on a bit of key, data, accumulator or buffer; after FINAL the two flags do not depend on them either. -/
def Obligations.StatusDependsOnLengthOnly : Prop :=
  ∀ (i : Instr) (s s' : State), s.live = true → s'.live = true → statusOut s = statusOut s' →
    ∃ t t', exec i s = .next t ∧ exec i s' = .next t' ∧
      (i ≠ .final → statusOut t = statusOut t') ∧ t.live = t'.live ∧ t.tv = t'.tv

/-- R23: the fields of STATUS. -/
def Obligations.StatusWordLayout : Prop :=
  ∀ s : State, (statusOut s).getLsbD 5 = s.tv ∧ (statusOut s).getLsbD 4 = s.live ∧
    (statusOut s).extractLsb' 0 4 = s.buflen

/-- R79, R103: how many blocks a command absorbs is the function `absorbCount` of `len` and BUFLEN alone, and these
are the blocks that are absorbed. An UPDATE on a live state cuts T = BUF[0..BUFLEN-1] ++ DIN[0..n-1] into that
many blocks of 16 bytes and the new pending bytes, and ACC becomes the old ACC with exactly these blocks absorbed;
a FINAL absorbs that many blocks of 1 to 15 bytes, which are all the pending bytes, before it makes the tag; NOP
and INIT absorb none, and no command absorbs more than one. -/
def Obligations.AbsorbedBlocksAreCountedByLength : Prop :=
  (∀ (i : Instr) (s : State), i.isUpdate = true → s.live = true →
    ∃ (t : State) (blocks : List (List Byte)), exec i s = .next t ∧
      blocks.length = absorbCount i s.buflen ∧ (∀ b ∈ blocks, b.length = 16) ∧
      blocks.flatten ++ (List.range t.buflen.toNat).map (arrivedByte t) =
        (List.range (s.buflen.toNat + i.beatLength)).map (arrivedByte s) ∧
      t.acc.toNat =
        blocks.foldl (fun a b => absorb a (blockInt b) (clamp (keyR s.port.key)).toNat) s.acc.toNat) ∧
  (∀ s : State, s.live = true →
    ∃ (t : State) (blocks : List (List Byte)), exec .final s = .next t ∧
      blocks.length = absorbCount .final s.buflen ∧ (∀ b ∈ blocks, 1 ≤ b.length ∧ b.length ≤ 15) ∧
      blocks.flatten = (List.range s.buflen.toNat).map (arrivedByte s) ∧
      t.tag.toNat =
        (blocks.foldl (fun a b => absorb a (blockInt b) (clamp (keyR s.port.key)).toNat) s.acc.toNat
          % (2 ^ 130 - 5) + (keyS s.port.key).toNat) % 2 ^ 128) ∧
  (∀ buflen : BitVec 4, absorbCount .nop buflen = 0 ∧ absorbCount .init buflen = 0 ∧
    ∀ i : Instr, absorbCount i buflen ≤ 1)

/-! ### The four units -/

/-- R9: LE is the sum of its bytes, LEBYTES_n gives the bytes, and the two are inverse. -/
def Obligations.LittleEndianIsInvertible : Prop :=
  (∀ b : List Byte, le b = ∑ i ∈ Finset.range b.length, (b.getD i 0#8).toNat * 2 ^ (8 * i)) ∧
  (∀ n v i : Nat, i < n → (leBytes n v)[i]? = some (BitVec.ofNat 8 (v / 2 ^ (8 * i)))) ∧
  (∀ n v : Nat, v < 2 ^ (8 * n) → le (leBytes n v) = v) ∧
  (∀ b : List Byte, leBytes b.length (le b) = b)

/-- R36: a multi-byte port or register read as one integer is the little-endian value of its bytes, byte j being
bits 8j+7 to 8j. -/
def Obligations.PortIntegersAreLittleEndian : Prop :=
  (∀ din : Lanes16, din.toNat = sumOfBytes (dinByte din) 16 ∧ le (beatBytes 16 din) = din.toNat) ∧
  (∀ key : Lanes32, key.toNat = sumOfBytes (keyByte key) 32 ∧ le (keyBytes 0 32 key) = key.toNat) ∧
  (∀ tag : Lanes16, tag.toNat = sumOfBytes (tagByte tag) 16 ∧ le (tagBytes tag) = tag.toNat) ∧
  (∀ (din tag : Lanes16) (key : Lanes32) (j : Nat),
    dinByte din j = din.extractLsb' (8 * j) 8 ∧ keyByte key j = key.extractLsb' (8 * j) 8 ∧
    tagByte tag j = tag.extractLsb' (8 * j) 8)

/-- R53: the key halves as little-endian values and as slices of the port, and the multiplier. -/
def Obligations.KeyHalvesAreTheirPortSlices : Prop :=
  ∀ key : Lanes32,
    (keyR key).toNat = (∑ i ∈ Finset.range 16, (keyByte key i).toNat * 2 ^ (8 * i)) ∧
    keyR key = key.extractLsb' 0 128 ∧
    (keyS key).toNat = (∑ i ∈ Finset.range 16, (keyByte key (16 + i)).toNat * 2 ^ (8 * i)) ∧
    keyS key = key.extractLsb' 128 128 ∧
    multiplier key = clamp (keyR key)

/-- R67: CLAMP bit by bit, by key byte and by 32-bit word. The mask is the spec's from general knowledge (GK1,
log 6). -/
def Obligations.ClampClearsExactlyTheMaskBits : Prop :=
  (∀ (x : BitVec 128) (i : Nat), i < 128 →
    (clamp x).getLsbD i =
      if i ∈ [28, 29, 30, 31, 32, 33, 60, 61, 62, 63, 64, 65, 92, 93, 94, 95, 96, 97, 124, 125, 126, 127]
      then false else x.getLsbD i) ∧
  (∀ (key : Lanes32) (j : Nat), j < 16 →
    (multiplier key).extractLsb' (8 * j) 8 =
      if j ∈ [3, 7, 11, 15] then keyByte key j &&& 0x0f#8
      else if j ∈ [4, 8, 12] then keyByte key j &&& 0xfc#8
      else keyByte key j) ∧
  (∀ x : BitVec 128,
    (clamp x).extractLsb' 0 32 = x.extractLsb' 0 32 &&& 0x0fffffff#32 ∧
    (clamp x).extractLsb' 32 32 = x.extractLsb' 32 32 &&& 0x0ffffffc#32 ∧
    (clamp x).extractLsb' 64 32 = x.extractLsb' 64 32 &&& 0x0ffffffc#32 ∧
    (clamp x).extractLsb' 96 32 = x.extractLsb' 96 32 &&& 0x0ffffffc#32)

/-- R68 (a) to (d): the range of CLAMP, that it is idempotent, that a zero multiplier makes every block product 0,
and its largest value. -/
def Obligations.ClampRangeAndFixpoints : Prop :=
  (∀ x : BitVec 128, (clamp x).toNat ≤ 0x0ffffffc0ffffffc0ffffffc0fffffff ∧ (clamp x).toNat < 2 ^ 124) ∧
  (∀ x : BitVec 128, clamp (clamp x) = clamp x) ∧
  clamp 0#128 = 0#128 ∧ (∀ a m : Nat, absorb a m 0 = 0) ∧
  clamp (BitVec.allOnes 128) = 0x0ffffffc0ffffffc0ffffffc0fffffff#128

/-- R71: the range of the block integer, that it tells all blocks of 1 to 16 bytes apart, and that it is not 0. -/
def Obligations.BlockIntegersAreUnambiguous : Prop :=
  (∀ b : List Byte, 1 ≤ b.length → b.length ≤ 16 →
    2 ^ (8 * b.length) ≤ blockInt b ∧ blockInt b < 2 ^ (8 * b.length + 1) ∧ blockInt b < 2 ^ 129 ∧
    (2 ^ 128 ≤ blockInt b ↔ b.length = 16) ∧ (b.length ≤ 15 → blockInt b < 2 ^ 121) ∧ blockInt b ≠ 0) ∧
  (∀ b c : List Byte, 1 ≤ b.length → b.length ≤ 16 → 1 ≤ c.length → c.length ≤ 16 →
    blockInt b = blockInt c → b = c)

/-- R77: the widths of the values inside the accumulator unit. -/
def Obligations.IntermediateValuesFitTheirWidths : Prop :=
  ∀ (a : Nat) (b : List Byte) (key : Lanes32), a < 2 ^ 130 - 5 → 1 ≤ b.length → b.length ≤ 16 →
    2 ^ 8 ≤ blockInt b ∧ blockInt b < 2 ^ 129 ∧
    2 ^ 8 ≤ addBlk a (blockInt b) ∧ addBlk a (blockInt b) < 3 * 2 ^ 129 ∧
    (multiplier key).toNat < 2 ^ 124 ∧
    mulR (addBlk a (blockInt b)) (multiplier key).toNat < 3 * 2 ^ 253 ∧
    absorb a (blockInt b) (multiplier key).toNat < 2 ^ 130 - 5

/-- R81 (a) to (e): the properties of FOLD, and that one fold is not enough. -/
def Obligations.FoldKeepsResidueAndShrinks : Prop :=
  (∀ x : Nat, fold x % (2 ^ 130 - 5) = x % (2 ^ 130 - 5)) ∧
  (∀ x : Nat, x < 2 ^ 130 → fold x = x) ∧
  (∀ x : Nat, x < 2 ^ 255 → fold x < 2 ^ 130 + 5 * 2 ^ 125 ∧ fold x < 2 ^ 131) ∧
  (∀ y : Nat, y < 2 ^ 130 + 5 * 2 ^ 125 → fold y < 2 ^ 130) ∧
  (∀ x : Nat, x < 2 ^ 255 →
    fold (fold x) < 2 ^ 130 ∧ fold (fold x) % (2 ^ 130 - 5) = x % (2 ^ 130 - 5)) ∧
  fold (2 ^ 255 - 1) = 0x49ffffffffffffffffffffffffffffffa ∧ (fold (2 ^ 255 - 1)).testBit 130 = true

/-- R82: FREEZE of a 130-bit value is its remainder modulo P, by one subtraction where it is P or more, and is
idempotent. -/
def Obligations.FreezeIsRemainder : Prop :=
  ∀ y : Nat, y < 2 ^ 130 →
    freeze y = (if (y + 5).testBit 130 = true then (y + 5) % 2 ^ 130 else y) ∧
    freeze y = (if 2 ^ 130 - 5 ≤ y then y - (2 ^ 130 - 5) else y) ∧
    freeze y = y % (2 ^ 130 - 5) ∧ freeze y < 2 ^ 130 - 5 ∧ freeze (freeze y) = freeze y

/-- R83: the two lines of REDUCE agree for every x < 2^255: the folding unit computes the remainder modulo P. -/
def Obligations.FoldingUnitComputesRemainder : Prop :=
  ∀ x : Nat, x < 2 ^ 255 → reduceByFolding x = x % (2 ^ 130 - 5) ∧ reduce x = reduceByFolding x ∧
    reduce x < 2 ^ 130 - 5

/-- R92, R91: the tag of a 130-bit accumulator value: reduced first, then s added modulo 2^128, then serialized,
byte j being bits 8j+7 to 8j; the register TAG as an integer is that sum. -/
def Obligations.TagIsReducedSumSerialized : Prop :=
  ∀ a s : Nat, a < 2 ^ 130 →
    (tagOf a s).length = 16 ∧
    (∀ j, j < 16 →
      (tagOf a s)[j]? = some (BitVec.ofNat 8 ((a % (2 ^ 130 - 5) + s) % 2 ^ 128 / 2 ^ (8 * j)))) ∧
    (toLanes16 (tagOf a s)).toNat = (a % (2 ^ 130 - 5) + s) % 2 ^ 128 ∧
    tagBytes (toLanes16 (tagOf a s)) = tagOf a s

/-- R26, R84: the tag and every later accumulator depend on an accumulator value through its residue modulo P
alone, so a lazily reducing accumulator gives the same tags. -/
def Obligations.OnlyTheResidueMatters : Prop :=
  ∀ a b : Nat, a % (2 ^ 130 - 5) = b % (2 ^ 130 - 5) →
    (∀ m r : Nat, absorb a m r = absorb b m r) ∧
    (a < 2 ^ 130 → b < 2 ^ 130 → ∀ s : Nat, tagOf a s = tagOf b s)

/-- R76: absorbing m_1, …, m_k in this order from 0 with one multiplier r gives the polynomial
m_1·r^k + … + m_k·r modulo P; in particular the accumulator after k blocks of a message is one. -/
def Obligations.AccumulatorIsPolynomial : Prop :=
  (∀ (r : Nat) (ms : List Nat),
    ms.foldl (fun a m => absorb a m r) 0 =
      (∑ i ∈ Finset.range ms.length, ms.getD i 0 * r ^ (ms.length - i)) % (2 ^ 130 - 5)) ∧
  ∀ (rc : Nat) (msg : List Byte) (k : Nat),
    chainValue rc msg k =
      (∑ i ∈ Finset.range k, blockInt (messageBlock msg i) * rc ^ (k - i)) % (2 ^ 130 - 5)

/-- R68 (c), R112: under a key whose multiplier clamps to 0 every message has the tag KEY[16..31]. -/
def Obligations.ZeroMultiplierTagIsKeyHalf : Prop :=
  ∀ (key : Lanes32) (msg : List Byte), multiplier key = 0#128 →
    mac key msg = (List.range 16).map fun j => keyByte key (16 + j)

/-! ### Messages -/

/-- R15, R29: after INIT the accumulator invariant holds of the empty message, under any key. -/
def Obligations.InitBeginsTheInvariant : Prop :=
  ∀ (s : State) (key : Lanes32), ∃ t, exec .init s = .next t ∧ t.Tracks key [] false

/-- R15: an UPDATE with the message's key extends the accumulator invariant by the bytes it delivers, whatever the
lengths of the beats so far. -/
def Obligations.UpdatesExtendTheInvariant : Prop :=
  ∀ (i : Instr) (s : State) (msg : List Byte) (updated : Bool), i.isUpdate = true →
    s.Tracks s.port.key msg updated →
    ∃ t, exec i s = .next t ∧
      t.Tracks s.port.key (msg ++ (List.range i.beatLength).map (dinByte s.port.din)) true

/-- R101, R107: FINAL with the message's key, on a state that meets the accumulator invariant, gives MAC(K, M). -/
def Obligations.FinalGivesMacOfTrackedMessage : Prop :=
  ∀ (s : State) (msg : List Byte) (updated : Bool), s.Tracks s.port.key msg updated →
    ∃ t, exec .final s = .next t ∧ tagOutBytes t = mac s.port.key msg ∧ t.tv = true ∧ t.live = false

/-- R108: from every state, INIT, then any UPDATEs with one key, cut anyhow, then FINAL with that key, with NOPs
and pauses anywhere, ends with TAG = MAC(K, M), TV = 1, LIVE = 0; and the state before the FINAL is the one that
the accumulator invariant gives for M, the same for every way of cutting M. -/
def Obligations.BeatBoundariesDoNotMatter : Prop :=
  ∀ (s : State) (key : Lanes32) (before middle after rest : List Port) (start close : Port),
    (∀ p ∈ before, quiet p) → offeredCommand start = some .init →
    (∀ p ∈ middle, p.inMessage key) →
    offeredCommand close = some .final → close.key = key → (∀ p ∈ after, quiet p) →
    s.script = before ++ start :: (middle ++ close :: (after ++ rest)) →
    (∃ u, runScript (before.length + 1 + middle.length) s = .next u ∧
      u.Tracks key (deliveredMessage middle)
        (middle.any fun p => (offeredCommand p).any Instr.isUpdate)) ∧
    (∃ t, runScript (before.length + 1 + middle.length + 1 + after.length) s = .next t ∧
      tagOutBytes t = mac key (deliveredMessage middle) ∧ t.tv = true ∧ t.live = false ∧
      t.script = rest)

/-- R106: the one-shot AUTH is INIT, floor(L/16) UPDATEs of 16 bytes, one UPDATE of the remaining bytes if there
are any, and FINAL, 2 + ceil(L/16) commands; from every state it leaves MAC(K, M) in TAG. -/
def Obligations.AuthComputesMac : Prop :=
  ∀ (s : State) (key : Lanes32) (msg : List Byte) (rest : List Port),
    s.script = auth key msg ++ rest →
    (auth key msg).map offeredCommand =
      some .init :: (List.replicate (msg.length / 16) (some .update16) ++
        ((if msg.length % 16 ≠ 0 then [some (.update (BitVec.ofNat 4 (msg.length % 16)))] else []) ++
          [some .final])) ∧
    (auth key msg).length = 2 + (msg.length + 15) / 16 ∧
    ∃ t, runScript (auth key msg).length s = .next t ∧ tagOutBytes t = mac key msg ∧ t.tv = true ∧
      t.live = false ∧ t.script = rest

/-- 95_test_vectors.md section 1.1: the source's own vector, its key, its 34 message bytes and its tag. -/
def Obligations.SourceVectorReproduces : Prop :=
  mac 0x1bf54941aff6bf4afdb20dfb8a800301a806d542fe52447f336d555778bed685#256
    [0x43#8, 0x72#8, 0x79#8, 0x70#8, 0x74#8, 0x6f#8, 0x67#8, 0x72#8, 0x61#8, 0x70#8, 0x68#8, 0x69#8,
     0x63#8, 0x20#8, 0x46#8, 0x6f#8, 0x72#8, 0x75#8, 0x6d#8, 0x20#8, 0x52#8, 0x65#8, 0x73#8, 0x65#8,
     0x61#8, 0x72#8, 0x63#8, 0x68#8, 0x20#8, 0x47#8, 0x72#8, 0x6f#8, 0x75#8, 0x70#8] =
    [0xa8#8, 0x06#8, 0x1d#8, 0xc1#8, 0x30#8, 0x51#8, 0x36#8, 0xc6#8, 0xc2#8, 0x2b#8, 0x8b#8, 0xaf#8,
     0x0c#8, 0x01#8, 0x27#8, 0xa9#8]

/-! ### The host and several instances -/

/-- R22, R130, R131, R136: a host that keeps its contract, from a state whose LIVE is what its phase says, is never
refused; the whole script runs, and LIVE at the end is what the last phase says. -/
def Obligations.ContractKeepingRunsComplete : Prop :=
  ∀ (s : State) (ph ph' : Phase), s.live = ph.live → ph.afterAll s.script = some ph' →
    ∃ t, runScript s.script.length s = .next t ∧ t.live = ph'.live ∧ t.script = []

/-- R122: an event at one instance is that instance's own step, and no other instance changes. -/
def Obligations.InstancesShareNothing : Prop :=
  ∀ (k : Nat) (all : Instances),
    (∀ s t, all[k]? = some s → step s = .next t →
      ∃ all', stepInstance k all = .next all' ∧ all'[k]? = some t) ∧
    (∀ all', stepInstance k all = .next all' →
      all'.length = all.length ∧ ∀ j, j ≠ k → all'[j]? = all[j]?)

end
end

