-- ==== Sys2Proof/Laws/Operands.lean ====
section
/-! SUPPORT. Byte strings and lanes: lengths, the value of a concatenation, LE of the bytes of a port. -/

namespace Sys2Proof.Machine

@[simp] theorem le_nil : le [] = 0 := rfl

@[simp] theorem le_cons (b : Byte) (bs : List Byte) : le (b :: bs) = b.toNat + 256 * le bs := rfl

theorem le_append (as bs : List Byte) : le (as ++ bs) = le as + 2 ^ (8 * as.length) * le bs := by
  induction as with
  | nil => simp
  | cons a as ih =>
    rw [List.cons_append, le_cons, le_cons, ih, List.length_cons, Nat.mul_succ, pow_add]
    ring

theorem le_lt (bs : List Byte) : le bs < 2 ^ (8 * bs.length) := by
  induction bs with
  | nil => simp
  | cons b bs ih =>
    have hb := b.isLt
    rw [le_cons, List.length_cons, Nat.mul_succ, pow_add]
    omega

@[simp] theorem leBytes_length (n v : Nat) : (leBytes n v).length = n := by
  induction n generalizing v with
  | zero => rfl
  | succ n ih => simp [leBytes, ih]

@[simp] theorem beatBytes_length (n : Nat) (din : Lanes16) : (beatBytes n din).length = n := by
  simp [beatBytes]

@[simp] theorem keyBytes_length (lo n : Nat) (key : Lanes32) : (keyBytes lo n key).length = n := by
  simp [keyBytes]

@[simp] theorem tagBytes_length (tag : Lanes16) : (tagBytes tag).length = 16 := by simp [tagBytes]

@[simp] theorem beatBytes_zero (din : Lanes16) : beatBytes 0 din = [] := rfl

/-- LE of the first n bytes of a port, in the form that every port of bytes shares (R36). -/
theorem le_lanes {w : Nat} (x : BitVec w) (lo n : Nat) :
    le ((List.range n).map fun j => x.extractLsb' (8 * (lo + j)) 8)
      = x.toNat / 2 ^ (8 * lo) % 2 ^ (8 * n) := by
  induction n with
  | zero => simp [Nat.mod_one]
  | succ n ih =>
    rw [List.range_succ, List.map_append, le_append, ih]
    simp only [List.length_map, List.length_range, List.map_cons, List.map_nil, le_cons, le_nil]
    rw [show 8 * (n + 1) = 8 * n + 8 by ring, pow_add 2 (8 * n) 8, Nat.mod_mul, Nat.div_div_eq_div_mul,
      ← pow_add, show 8 * lo + 8 * n = 8 * (lo + n) by ring]
    simp [BitVec.extractLsb', Nat.shiftRight_eq_div_pow]

theorem le_beatBytes (n : Nat) (din : Lanes16) : le (beatBytes n din) = din.toNat % 2 ^ (8 * n) := by
  have h := le_lanes din 0 n
  simp only [Nat.zero_add, Nat.mul_zero, Nat.pow_zero, Nat.div_one] at h
  exact h

theorem le_keyBytes (lo n : Nat) (key : Lanes32) :
    le (keyBytes lo n key) = key.toNat / 2 ^ (8 * lo) % 2 ^ (8 * n) :=
  le_lanes key lo n

theorem le_tagBytes (tag : Lanes16) : le (tagBytes tag) = tag.toNat := by
  have h := le_lanes tag 0 16
  simp only [Nat.zero_add, Nat.mul_zero, Nat.pow_zero, Nat.div_one] at h
  rw [Nat.mod_eq_of_lt tag.isLt] at h
  exact h

/-- Two byte strings of one length with one value are equal. -/
theorem le_injective {as bs : List Byte} (hlen : as.length = bs.length) (h : le as = le bs) : as = bs := by
  induction as generalizing bs with
  | nil => exact (List.length_eq_zero_iff.mp hlen.symm).symm
  | cons a as ih =>
    cases bs with
    | nil => simp at hlen
    | cons b bs =>
      simp only [le_cons, List.length_cons] at h hlen
      have ha := a.isLt
      have hb := b.isLt
      have hab : a = b := BitVec.eq_of_toNat_eq (by omega)
      rw [hab, ih (bs := bs) (by omega) (by omega)]

@[simp] theorem fillBuf_getElem (bytes : List Byte) (j : Nat) (hj : j < 15) :
    (fillBuf bytes)[j] = bytes.getD j 0 := by
  simp [fillBuf]

/-- The bytes of BUF in use are those it was filled from. -/
theorem fillBuf_take (bytes : List Byte) (h : bytes.length ≤ 15) :
    (fillBuf bytes).toList.take bytes.length = bytes := by
  apply List.ext_getElem
  · simp; omega
  · intro j h1 h2
    simp [h2]

end Sys2Proof.Machine
end

