-- ==== Sys2Proof/Laws/Arithmetic.lean ====
section
/-! SUPPORT. Small facts about the four units: value forms, ranges, and what a conditional subtraction does. -/

namespace Sys2Proof.Machine

theorem prime_pos : 0 < prime := by decide

theorem prime_lt : prime < 2 ^ 130 := by decide

theorem reduce_lt (x : Nat) : reduce x < prime := Nat.mod_lt x prime_pos

theorem absorb_eq (a m r : Nat) : absorb a m r = (a + m) * r % prime := rfl

theorem absorb_lt (a m r : Nat) : absorb a m r < prime := reduce_lt _

theorem absorb_toNat (a m r : Nat) : (BitVec.ofNat 130 (absorb a m r)).toNat = absorb a m r := by
  rw [BitVec.toNat_ofNat]
  exact Nat.mod_eq_of_lt (lt_trans (absorb_lt a m r) prime_lt)

theorem keyR_toNat (key : Lanes32) : (keyR key).toNat = key.toNat % 2 ^ 128 := by
  simp [keyR, le_keyBytes]

theorem keyS_toNat (key : Lanes32) : (keyS key).toNat = key.toNat / 2 ^ 128 := by
  have h := key.isLt
  rw [keyS, BitVec.toNat_ofNat, le_keyBytes]
  norm_num
  omega

theorem clamp_le_mask (x : BitVec 128) : (clamp x).toNat ≤ clampMask.toNat := by
  rw [clamp, BitVec.toNat_and]
  exact Nat.and_le_right

theorem multiplier_lt (key : Lanes32) : (multiplier key).toNat < 2 ^ 124 :=
  lt_of_le_of_lt (clamp_le_mask _) (by decide)

/-- FREEZE as a comparison with P, for an operand of its width. -/
theorem freeze_eq_ite (y : Nat) (hy : y < 2 ^ 130) : freeze y = if prime ≤ y then y - prime else y := by
  have hbit : (y + 5).testBit 130 = decide (prime ≤ y) := by
    rw [Nat.testBit_eq_decide_div_mod_eq]
    congr 1
    simp only [prime]
    norm_num at hy ⊢
    omega
  simp only [freeze, hbit, decide_eq_true_eq]
  split
  · simp only [prime] at *
    norm_num at hy ⊢
    omega
  · rfl

theorem le_serialize (t : Nat) (ht : t < 2 ^ 128) : le (serialize t) = t := by
  have hgen : ∀ n v, le (leBytes n v) = v % 2 ^ (8 * n) := by
    intro n
    induction n with
    | zero => intro v; simp [leBytes, Nat.mod_one]
    | succ n ih =>
      intro v
      rw [leBytes, le_cons, ih, show 8 * (n + 1) = 8 + 8 * n by ring, pow_add, Nat.mod_mul]
      simp
  rw [serialize, hgen]
  exact Nat.mod_eq_of_lt ht

theorem addS_lt (f s : Nat) : addS f s < 2 ^ 128 := Nat.mod_lt _ (by norm_num)

/-- A tag laid on the lanes of TAG is the final integer (R91). -/
theorem toLanes16_tagOf (a s : Nat) : (toLanes16 (tagOf a s)).toNat = addS (finalRed a) s := by
  rw [toLanes16, tagOf, le_serialize _ (addS_lt _ _), BitVec.toNat_ofNat]
  exact Nat.mod_eq_of_lt (addS_lt _ _)

/-- The bytes on the lanes of TAG are the tag (R91). -/
theorem tagBytes_toLanes16_tagOf (a s : Nat) : tagBytes (toLanes16 (tagOf a s)) = tagOf a s := by
  apply le_injective
  · simp [tagOf, serialize]
  · rw [le_tagBytes, toLanes16_tagOf, tagOf, le_serialize _ (addS_lt _ _)]

end Sys2Proof.Machine
end

