-- ==== Sys2Proof/Laws/State.lean ====
section
/-! SUPPORT. One lemma per field per update of the state, true by rfl. -/

namespace Sys2Proof.Machine

/-! The pins and the script change, no register does (R48). -/

@[simp] theorem present_acc (p : Port) (rest : List Port) (s : State) : (present p rest s).acc = s.acc := rfl
@[simp] theorem present_rc (p : Port) (rest : List Port) (s : State) : (present p rest s).rc = s.rc := rfl
@[simp] theorem present_buf (p : Port) (rest : List Port) (s : State) : (present p rest s).buf = s.buf := rfl
@[simp] theorem present_buflen (p : Port) (rest : List Port) (s : State) :
    (present p rest s).buflen = s.buflen := rfl
@[simp] theorem present_live (p : Port) (rest : List Port) (s : State) :
    (present p rest s).live = s.live := rfl
@[simp] theorem present_tv (p : Port) (rest : List Port) (s : State) : (present p rest s).tv = s.tv := rfl
@[simp] theorem present_tag (p : Port) (rest : List Port) (s : State) : (present p rest s).tag = s.tag := rfl
@[simp] theorem present_port (p : Port) (rest : List Port) (s : State) : (present p rest s).port = p := rfl
@[simp] theorem present_script (p : Port) (rest : List Port) (s : State) :
    (present p rest s).script = rest := rfl
@[simp] theorem present_draws (p : Port) (rest : List Port) (s : State) :
    (present p rest s).draws = s.draws := rfl

/-! Reset (R125). -/

@[simp] theorem resetRegisters_acc (s : State) :
    (resetRegisters s).acc = Config.freeAcc (drawSite s.port s) := rfl
@[simp] theorem resetRegisters_rc (s : State) :
    (resetRegisters s).rc = Config.freeRc (drawSite s.port s) := rfl
@[simp] theorem resetRegisters_buf (s : State) : (resetRegisters s).buf = drawBuf (drawSite s.port s) := rfl
@[simp] theorem resetRegisters_buflen (s : State) :
    (resetRegisters s).buflen = Config.freeBuflen (drawSite s.port s) := rfl
@[simp] theorem resetRegisters_live (s : State) : (resetRegisters s).live = false := rfl
@[simp] theorem resetRegisters_tv (s : State) : (resetRegisters s).tv = false := rfl
@[simp] theorem resetRegisters_tag (s : State) :
    (resetRegisters s).tag = Config.freeTag (drawSite s.port s) := rfl
@[simp] theorem resetRegisters_port (s : State) : (resetRegisters s).port = s.port := rfl
@[simp] theorem resetRegisters_script (s : State) : (resetRegisters s).script = s.script := rfl
@[simp] theorem resetRegisters_draws (s : State) : (resetRegisters s).draws = s.draws + 1 := rfl

/-! INIT (R99). -/

@[simp] theorem startMessage_acc (s : State) : (startMessage s).acc = 0#130 := rfl
@[simp] theorem startMessage_rc (s : State) : (startMessage s).rc = 0#128 := rfl
@[simp] theorem startMessage_buf (s : State) : (startMessage s).buf = fillBuf [] := rfl
@[simp] theorem startMessage_buflen (s : State) : (startMessage s).buflen = 0#4 := rfl
@[simp] theorem startMessage_live (s : State) : (startMessage s).live = true := rfl
@[simp] theorem startMessage_tv (s : State) : (startMessage s).tv = false := rfl
@[simp] theorem startMessage_tag (s : State) : (startMessage s).tag = s.tag := rfl
@[simp] theorem startMessage_port (s : State) : (startMessage s).port = s.port := rfl
@[simp] theorem startMessage_script (s : State) : (startMessage s).script = s.script := rfl
@[simp] theorem startMessage_draws (s : State) : (startMessage s).draws = s.draws := rfl

/-! UPDATE on a live state (R100). -/

@[simp] theorem updateLive_acc (n : Nat) (s : State) :
    (updateLive n s).acc = absorbFirst s.acc (gatheredBytes n s) (multiplier s.port.key) := rfl
@[simp] theorem updateLive_rc (n : Nat) (s : State) : (updateLive n s).rc = multiplier s.port.key := rfl
@[simp] theorem updateLive_buf (n : Nat) (s : State) :
    (updateLive n s).buf = fillBuf (leftover (gatheredBytes n s)) := rfl
@[simp] theorem updateLive_buflen (n : Nat) (s : State) :
    (updateLive n s).buflen = BitVec.ofNat 4 (leftover (gatheredBytes n s)).length := rfl
@[simp] theorem updateLive_live (n : Nat) (s : State) : (updateLive n s).live = s.live := rfl
@[simp] theorem updateLive_tv (n : Nat) (s : State) : (updateLive n s).tv = s.tv := rfl
@[simp] theorem updateLive_tag (n : Nat) (s : State) : (updateLive n s).tag = s.tag := rfl
@[simp] theorem updateLive_port (n : Nat) (s : State) : (updateLive n s).port = s.port := rfl
@[simp] theorem updateLive_script (n : Nat) (s : State) : (updateLive n s).script = s.script := rfl
@[simp] theorem updateLive_draws (n : Nat) (s : State) : (updateLive n s).draws = s.draws := rfl

/-! UPDATE with LIVE = 0 (R102). -/

@[simp] theorem updateSpent_acc (n : Nat) (s : State) :
    (updateSpent n s).acc = Config.freeAcc (drawSite (updatePins n s.port) s) := rfl
@[simp] theorem updateSpent_rc (n : Nat) (s : State) : (updateSpent n s).rc = multiplier s.port.key := rfl
@[simp] theorem updateSpent_buf (n : Nat) (s : State) :
    (updateSpent n s).buf = drawBuf (drawSite (updatePins n s.port) s) := rfl
@[simp] theorem updateSpent_buflen (n : Nat) (s : State) :
    (updateSpent n s).buflen = Config.freeBuflen (drawSite (updatePins n s.port) s) := rfl
@[simp] theorem updateSpent_live (n : Nat) (s : State) : (updateSpent n s).live = s.live := rfl
@[simp] theorem updateSpent_tv (n : Nat) (s : State) : (updateSpent n s).tv = s.tv := rfl
@[simp] theorem updateSpent_tag (n : Nat) (s : State) : (updateSpent n s).tag = s.tag := rfl
@[simp] theorem updateSpent_port (n : Nat) (s : State) : (updateSpent n s).port = s.port := rfl
@[simp] theorem updateSpent_script (n : Nat) (s : State) : (updateSpent n s).script = s.script := rfl
@[simp] theorem updateSpent_draws (n : Nat) (s : State) : (updateSpent n s).draws = s.draws + 1 := rfl

/-! FINAL (R101). -/

@[simp] theorem closeMessage_acc (s : State) :
    (closeMessage s).acc = Config.freeAcc (drawSite (finalPins s.port) s) := rfl
@[simp] theorem closeMessage_rc (s : State) :
    (closeMessage s).rc = Config.freeRc (drawSite (finalPins s.port) s) := rfl
@[simp] theorem closeMessage_buf (s : State) :
    (closeMessage s).buf = drawBuf (drawSite (finalPins s.port) s) := rfl
@[simp] theorem closeMessage_buflen (s : State) :
    (closeMessage s).buflen = Config.freeBuflen (drawSite (finalPins s.port) s) := rfl
@[simp] theorem closeMessage_live (s : State) : (closeMessage s).live = false := rfl
@[simp] theorem closeMessage_tv (s : State) : (closeMessage s).tv = true := rfl
@[simp] theorem closeMessage_tag (s : State) :
    (closeMessage s).tag = if s.live then closingTag s else Config.freeTag (drawSite (finalPins s.port) s) := rfl
@[simp] theorem closeMessage_port (s : State) : (closeMessage s).port = s.port := rfl
@[simp] theorem closeMessage_script (s : State) : (closeMessage s).script = s.script := rfl
@[simp] theorem closeMessage_draws (s : State) : (closeMessage s).draws = s.draws + 1 := rfl

/-! The script grows by one command. -/

@[simp] theorem withFetchWord_acc (s : State) (nbits w : Nat) : (s.withFetchWord nbits w).acc = s.acc := rfl
@[simp] theorem withFetchWord_rc (s : State) (nbits w : Nat) : (s.withFetchWord nbits w).rc = s.rc := rfl
@[simp] theorem withFetchWord_buf (s : State) (nbits w : Nat) : (s.withFetchWord nbits w).buf = s.buf := rfl
@[simp] theorem withFetchWord_buflen (s : State) (nbits w : Nat) :
    (s.withFetchWord nbits w).buflen = s.buflen := rfl
@[simp] theorem withFetchWord_live (s : State) (nbits w : Nat) :
    (s.withFetchWord nbits w).live = s.live := rfl
@[simp] theorem withFetchWord_tv (s : State) (nbits w : Nat) : (s.withFetchWord nbits w).tv = s.tv := rfl
@[simp] theorem withFetchWord_tag (s : State) (nbits w : Nat) : (s.withFetchWord nbits w).tag = s.tag := rfl
@[simp] theorem withFetchWord_port (s : State) (nbits w : Nat) :
    (s.withFetchWord nbits w).port = s.port := rfl
@[simp] theorem withFetchWord_script (s : State) (nbits w : Nat) :
    (s.withFetchWord nbits w).script = commandPort (BitVec.ofNat 7 (w % 2 ^ nbits)) 0#128 0#256 :: s.script := rfl
@[simp] theorem withFetchWord_draws (s : State) (nbits w : Nat) :
    (s.withFetchWord nbits w).draws = s.draws := rfl

end Sys2Proof.Machine
end

