-- ==== Sys2Proof/Laws/Ops.lean ====
section
/-! SUPPORT. What the shared operations do, one lemma for each: the bytes an UPDATE gathers, what it leaves, and
which of its two effects it takes. -/

namespace Sys2Proof.Machine

theorem updateBeat_of_live {s : State} (h : s.live = true) (n : Nat) : updateBeat n s = updateLive n s := by
  simp [updateBeat, h]

theorem updateBeat_of_spent {s : State} (h : s.live = false) (n : Nat) :
    updateBeat n s = updateSpent n s := by
  simp [updateBeat, h]

@[simp] theorem pendingBytes_length (s : State) : (pendingBytes s).length = s.buflen.toNat := by
  have h := s.buflen.isLt
  simp [pendingBytes]
  omega

@[simp] theorem gatheredBytes_length (n : Nat) (s : State) :
    (gatheredBytes n s).length = s.buflen.toNat + n := by
  simp [gatheredBytes]

/-- What is left after a beat is at most 15 bytes, since T has at most 31 (R100, R19). -/
theorem leftover_length {t : List Byte} (h : t.length ≤ 31) :
    (leftover t).length = t.length % 16 ∧ (leftover t).length ≤ 15 := by
  unfold leftover
  split
  · rw [List.length_drop]
    omega
  · omega

theorem absorbFirst_full {acc : BitVec 130} {t : List Byte} {rc : BitVec 128} (h : 16 ≤ t.length) :
    (absorbFirst acc t rc).toNat = absorb acc.toNat (blockInt (t.take 16)) rc.toNat := by
  rw [absorbFirst, if_pos h, absorb_toNat]

theorem absorbFirst_short {acc : BitVec 130} {t : List Byte} {rc : BitVec 128} (h : t.length < 16) :
    absorbFirst acc t rc = acc := by
  rw [absorbFirst, if_neg (by omega)]

/-- The accumulator is canonical after a beat if it was before (R14). -/
theorem absorbFirst_lt {acc : BitVec 130} (h : acc.toNat < prime) (t : List Byte) (rc : BitVec 128) :
    (absorbFirst acc t rc).toNat < prime := by
  by_cases ht : 16 ≤ t.length
  · rw [absorbFirst_full ht]
    exact absorb_lt _ _ _
  · rw [absorbFirst_short (by omega)]
    exact h

/-- The bytes pending after a beat on a live state are what it left over. -/
theorem pendingBytes_updateLive {n : Nat} (hn : n ≤ 16) (s : State) :
    pendingBytes (updateLive n s) = leftover (gatheredBytes n s) := by
  have hs := s.buflen.isLt
  have hlen : (gatheredBytes n s).length ≤ 31 := by rw [gatheredBytes_length]; omega
  have h15 := (leftover_length hlen).2
  rw [pendingBytes, updateLive_buf, updateLive_buflen, BitVec.toNat_ofNat, Nat.mod_eq_of_lt (by omega)]
  exact fillBuf_take _ h15

/-- An UPDATE absorbs as many blocks as BUFLEN + len bytes fill (R103). -/
theorem absorbCount_update {i : Instr} (h : i.isUpdate = true) (buflen : BitVec 4) :
    absorbCount i buflen = (buflen.toNat + i.beatLength) / 16 := by
  have hb := buflen.isLt
  cases i with
  | nop => cases h
  | init => cases h
  | update len =>
    have hl := len.isLt
    simp only [absorbCount, Instr.beatLength]
    split <;> omega
  | update16 =>
    simp only [absorbCount, Instr.beatLength]
    omega
  | final => cases h

/-- The latency parameter sees `op`, `len` and BUFLEN only, by its type (R138; log 10). -/
theorem commandLatency_congr (i : Instr) {s t : State} (h : s.buflen = t.buflen) :
    commandLatency i s = commandLatency i t := by
  rw [commandLatency, h, commandLatency]

/-- Only the bytes in use matter to a beat and to FINAL (R18). -/
theorem pendingBytes_congr {s t : State} (hlen : s.buflen = t.buflen)
    (h : ∀ j : Fin 15, j.val < s.buflen.toNat → s.buf[j] = t.buf[j]) : pendingBytes s = pendingBytes t := by
  apply List.ext_getElem
  · simp [hlen]
  · intro j h1 h2
    rw [pendingBytes_length] at h1
    have hj : j < 15 := by have := s.buflen.isLt; omega
    have := h ⟨j, hj⟩ h1
    simpa [pendingBytes] using this

end Sys2Proof.Machine
end

