-- ==== Sys2Proof/Laws/PerInstr.lean ====
section
/-! SUPPORT. Statements about every instruction as syntax, one lemma per constructor. -/

namespace Sys2Proof.Laws.EncodesInOwnRow

/-- The word of an instruction is a defined one and selects its own row of the opcode table and no other
(R55). -/
def Statement (i : Instr) : Prop :=
  (encode i).defined = true ∧ opcodeTable.filter (fun r => r.selects (encode i)) = [tableRow i]

theorem nop : Statement .nop := by unfold Statement; decide

theorem init : Statement .init := by unfold Statement; decide

theorem update (len : BitVec 4) : Statement (.update len) := by
  unfold Statement
  revert len
  decide

theorem update16 : Statement .update16 := by unfold Statement; decide

theorem final : Statement .final := by unfold Statement; decide

end Sys2Proof.Laws.EncodesInOwnRow
end

