-- ==== Sys2Proof/Laws/Step.lean ====
section
/-! SUPPORT. What a command and a step can do: every command answers a next state, and a step is one of
reset, a command, a refusal of a reserved word, or nothing. -/

namespace Sys2Proof.Machine

@[simp] theorem exec_nop (s : State) : exec .nop s = .next s := rfl

@[simp] theorem exec_init (s : State) : exec .init s = .next (startMessage s) := rfl

@[simp] theorem exec_update (len : BitVec 4) (s : State) :
    exec (.update len) s = .next (updateBeat len.toNat s) := rfl

@[simp] theorem exec_update16 (s : State) : exec .update16 s = .next (updateBeat 16 s) := rfl

@[simp] theorem exec_final (s : State) : exec .final s = .next (closeMessage s) := rfl

/-- The two UPDATE constructors have one effect, that of a beat of their length. -/
theorem exec_of_length (i : Instr) (h : i ≠ .nop ∧ i ≠ .init ∧ i ≠ .final) (s : State) :
    exec i s = .next (updateBeat i.beatLength s) := by
  cases i <;> simp_all [Instr.beatLength]

theorem beatLength_le (i : Instr) : i.beatLength ≤ 16 := by
  cases i <;> simp [Instr.beatLength]
  omega

theorem accept_reset {s : State} (h : s.port.rst = true) : accept s = .next (resetRegisters s) := by
  simp [accept, h]

theorem accept_idle {s : State} (hr : s.port.rst = false) (hv : s.port.cmdValid = false) :
    accept s = .next s := by
  simp [accept, hr, hv]

theorem accept_command {s : State} {i : Instr} (hr : s.port.rst = false) (hv : s.port.cmdValid = true)
    (hd : decode s.port.cw = .ok i) : accept s = exec i s := by
  simp [accept, hr, hv, hd]

theorem accept_reserved {s : State} {r : Reserved} (hr : s.port.rst = false) (hv : s.port.cmdValid = true)
    (hd : decode s.port.cw = .error r) : accept s = .refused (.reservedWord r) := by
  simp [accept, hr, hv, hd]

/-- Everything an event can do when it answers a next state. -/
theorem accept_cases {s t : State} (h : accept s = .next t) :
    (s.port.rst = true ∧ t = resetRegisters s) ∨
    (s.port.rst = false ∧ s.port.cmdValid = false ∧ t = s) ∨
    (s.port.rst = false ∧ s.port.cmdValid = true ∧ ∃ i, decode s.port.cw = .ok i ∧ exec i s = .next t) := by
  rcases hr : s.port.rst with _ | _
  · rcases hv : s.port.cmdValid with _ | _
    · rw [accept_idle hr hv, Host.Outcome.next.injEq] at h
      exact .inr (.inl ⟨rfl, rfl, h.symm⟩)
    · rcases hd : decode s.port.cw with r | i
      · rw [accept_reserved hr hv hd] at h
        cases h
      · rw [accept_command hr hv hd] at h
        exact .inr (.inr ⟨rfl, rfl, i, rfl, h⟩)
  · rw [accept_reset hr, Host.Outcome.next.injEq] at h
    exact .inl ⟨rfl, h.symm⟩

theorem nextPins_cons {s : State} {p : Port} {rest : List Port} (h : s.script = p :: rest) :
    nextPins s = present p rest s := by
  simp [nextPins, h]

theorem nextPins_nil {s : State} (h : s.script = []) : nextPins s = present idlePort [] s := by
  simp [nextPins, h]

end Sys2Proof.Machine
end

