-- ==== Sys2Proof/Laws/Run.lean ====
section
/-! SUPPORT. Running several steps: one step at a time, and in two parts. -/

namespace Sys2Proof.Machine

@[simp] theorem runScript_zero (s : State) : runScript 0 s = .next s := rfl

theorem runScript_succ {s t : State} (h : step s = .next t) (k : Nat) :
    runScript (k + 1) s = runScript k t := by
  rw [runScript, h]

theorem runScript_one {s t : State} (h : step s = .next t) : runScript 1 s = .next t := runScript_succ h 0

/-- A run in two parts, the first of which answers a next state. -/
theorem runScript_add {a : Nat} {s t : State} (h : runScript a s = .next t) (b : Nat) :
    runScript (a + b) s = runScript b t := by
  induction a generalizing s with
  | zero =>
    rw [runScript_zero, Host.Outcome.next.injEq] at h
    rw [h, Nat.zero_add]
  | succ a ih =>
    rcases hs : step s with u | r | r
    · rw [runScript_succ hs] at h
      rw [Nat.add_right_comm, runScript_succ hs]
      exact ih h
    · cases r
    · rw [runScript, hs] at h
      cases h

/-- What one more step of any machine behind the host's interface does, by the outcome of that step. -/
theorem coreRun_succ (M : Host.Core) (k : Nat) (s : M.State) :
    (∀ t, M.step s = .next t → M.run (k + 1) s = M.run k t) ∧
    (∀ r, M.step s = .refused r → M.run (k + 1) s = .refused r) := by
  constructor
  · intro t h
    simp only [Host.Core.run, h]
  · intro r h
    simp only [Host.Core.run, h]

/-- The run of the model is the run of the machine behind the host's interface. -/
theorem runScript_eq_core_run (k : Nat) (s : State) : runScript k s = core.run k s := by
  induction k generalizing s with
  | zero => rfl
  | succ k ih =>
    rcases hs : step s with t | r | r
    · rw [runScript_succ hs, ih]
      exact ((coreRun_succ core k s).1 t hs).symm
    · cases r
    · rw [runScript, hs]
      exact ((coreRun_succ core k s).2 r hs).symm

end Sys2Proof.Machine
end

