-- ==== Sys2Proof/Machine/Listing.lean ====
section
/-! DEFINITION. The listing syntax of commands (R59) and their machine form (R60), as character lists. "The
syntax exists only so that" programs can be listed (R59); no step reads it. -/

namespace Sys2Proof.Machine

/-- A hexadecimal digit, lower case. -/
def hexDigit (n : Nat) : Char :=
  if n < 10 then Char.ofNat (48 + n) else Char.ofNat (87 + n)

/-- A byte as two hexadecimal digits (R59). -/
def hexByte (b : Byte) : List Char := [hexDigit (b.toNat / 16), hexDigit (b.toNat % 16)]

/-- A byte string in lane order, first byte first, separated by nothing (R59). -/
def hexBytes (bytes : List Byte) : List Char := bytes.flatMap hexByte

/-- A length of at most 99 in decimal (R59). -/
def decimal (n : Nat) : List Char :=
  if n < 10 then [hexDigit n] else [hexDigit (n / 10), hexDigit (n % 10)]

/-- The line `UPDATE  len=<n>, din=<hex bytes>, key=<K>` (R59). -/
def updateLine (n : Nat) (din : Lanes16) (key : Lanes32) : List Char :=
  ['U', 'P', 'D', 'A', 'T', 'E', ' ', ' ', 'l', 'e', 'n', '='] ++ decimal n ++
    [',', ' ', 'd', 'i', 'n', '='] ++ hexBytes (beatBytes n din) ++
    [',', ' ', 'k', 'e', 'y', '='] ++ hexBytes (keyBytes 0 32 key)

/-- One command with its operands as a line of a listing (R59). -/
def listing (i : Instr) (din : Lanes16) (key : Lanes32) : List Char :=
  match i with
  | .nop => ['N', 'O', 'P']
  | .init => ['I', 'N', 'I', 'T']
  | .update len => updateLine len.toNat din key
  | .update16 => updateLine 16 din key
  | .final => ['F', 'I', 'N', 'A', 'L', ' ', ' ', ' ', 'k', 'e', 'y', '='] ++ hexBytes (keyBytes 0 32 key)

/-- The DIN and KEY parts of a machine form, "omitting DIN for commands that do not read it and KEY for NOP
and INIT" (R60). -/
def machineOperands (i : Instr) (din : Lanes16) (key : Lanes32) : List Char :=
  match i with
  | .nop => []
  | .init => []
  | .update _ => dinPart ++ keyPart
  | .update16 => dinPart ++ keyPart
  | .final => keyPart
where
  dinPart : List Char := [' ', 'D', 'I', 'N', '='] ++ hexBytes (beatBytes i.beatLength din)
  keyPart : List Char := [' ', 'K', 'E', 'Y', '='] ++ hexBytes (keyBytes 0 32 key)

/-- One command in its machine form `CW=0x.. DIN=.. KEY=..` (R60). -/
def machineForm (i : Instr) (din : Lanes16) (key : Lanes32) : List Char :=
  ['C', 'W', '=', '0', 'x'] ++ hexByte ((encode i).setWidth 8) ++ machineOperands i din key

end Sys2Proof.Machine
end

