-- ==== Sys2Proof/Tests/Slice0.lean ====
section
/-! SUPPORT. Tests against the vectors of spec/95_test_vectors.md and the examples of the rules, the smoke test
of the well-formedness checks, and one witness for every statement with hypotheses. -/

namespace Sys2Proof.Tests

open Sys2Proof Sys2Proof.Machine Sys2Proof.Certificates

/-! ### Concrete keys, data and states -/

/-- The key of section 1.1, KEY[0] in the low byte. -/
def sourceKey : Lanes32 := 0x1bf54941aff6bf4afdb20dfb8a800301a806d542fe52447f336d555778bed685#256

/-- The key Kseq, KEY[i] = i (section 2.8). -/
def seqKey : Lanes32 := 0x1f1e1d1c1b1a191817161514131211100f0e0d0c0b0a09080706050403020100#256

/-- Message bytes 0 to 15 of section 1.1, byte 0 in the low byte. -/
def sourceBlock : Lanes16 := 0x6f4620636968706172676f7470797243#128

/-- The pins that offer an UPDATE of n bytes. -/
def updatePort (n : Nat) (din : Lanes16) (key : Lanes32) : Port := commandPort (encode (updateOf n)) din key

/-- A state with given ACC, pending bytes and pins, LIVE = 1 and TV = 0. -/
def stateWith (acc : BitVec 130) (pending : List Byte) (pins : Port) : State :=
  { acc := acc, rc := 0#128, buf := fillBuf pending, buflen := BitVec.ofNat 4 pending.length, live := true,
    tv := false, tag := 0#128, port := pins, script := [], draws := 0 }

/-- The same state with LIVE = 0. -/
def spentWith (pins : Port) : State := { stateWith 0#130 [] pins with live := false }

/-- The state that a next outcome holds, or the given one. -/
def nextOr (s : State) : Host.Outcome State Fault Refusal → State
  | .next t => t
  | .fault _ => s
  | .refused _ => s

/-- Fifteen pending bytes 80, 81, … 8e (program P5). -/
def fifteen : List Byte := (List.range 15).map fun i => BitVec.ofNat 8 (0x80 + i)

/-! ### Well-formedness -/

/-- One ill-formed word for each reserved range (R55). -/
theorem test_reserved_words_ill_formed :
    CommandWord.defined 0x01#7 = false ∧ CommandWord.defined 0x3f#7 = false ∧
    CommandWord.defined 0x51#7 = false ∧ CommandWord.defined 0x61#7 = false := by decide

/-- Pins that offer a reserved word are ill formed, unless reset is asserted with it (R116, R136). -/
theorem test_reserved_pins_ill_formed :
    (commandPort 0x5f#7 0#128 0#256).wellFormed = false ∧
    Port.wellFormed { commandPort 0x5f#7 0#128 0#256 with rst := true } = true := by decide

/-- The longest beats are well formed (R51). -/
theorem test_longest_beats_well_formed :
    (Instr.update 15#4).wellFormed = true ∧ Instr.update16.wellFormed = true := by decide

/-! ### Decoding: words written out from R55 and section 2.6 -/

theorem test_decode_update_lengths :
    decode 0b1000000#7 = .ok (.update 0#4) ∧ decode 0b1001111#7 = .ok (.update 15#4) ∧
    decode 0b1010001#7 = .error (.updateTooLong 17#5) := by decide

theorem test_decode_table_words :
    decodeTableWord 8 0x00 = some .nop ∧ decodeTableWord 8 0x20 = some .init ∧
    decodeTableWord 8 0x4f = some (.update 15#4) ∧ decodeTableWord 8 0x50 = some .update16 ∧
    decodeTableWord 8 0x60 = some .final ∧ decodeTableWord 8 0x80 = none := by decide

/-! ### The units -/

/-- R64, R65, R69 examples. -/
theorem test_key_halves :
    keyR sourceKey = 0xa806d542fe52447f336d555778bed685#128 ∧
    keyS sourceKey = 0x1bf54941aff6bf4afdb20dfb8a800301#128 ∧
    multiplier sourceKey = 0x0806d5400e52447c036d555408bed685#128 := by decide

/-- Section 2.1, the row KEY[i] = 0xf0 + i. -/
theorem test_clamp_row :
    clamp 0xfffefdfcfbfaf9f8f7f6f5f4f3f2f1f0#128 = 0x0ffefdfc0bfaf9f807f6f5f403f2f1f0#128 := by decide

/-- Section 2.2: a trailing zero byte matters. -/
theorem test_block_integers :
    blockInt [0x01#8] = 0x101 ∧ blockInt [0x01#8, 0x00#8] = 0x10001 ∧ blockInt [0x75#8, 0x70#8] = 0x17075 ∧
    blockInt (beatBytes 16 sourceBlock) = 0x16f4620636968706172676f7470797243 := by decide

/-- Section 2.3: the sum P, the conditional subtraction, the largest product. -/
theorem test_absorb_rows :
    absorb 0x3fffffffffffffffffffffffffffffefb 0x100 0x0806d5400e52447c036d555408bed685 = 0 ∧
    absorb 0 (2 ^ 129 - 1) 2 = 3 ∧
    absorb (2 ^ 130 - 6) (2 ^ 129 - 1) 0x0ffffffc0ffffffc0ffffffc0fffffff =
      0x207fffffe07fffffe07fffffe07fffffd := by decide

/-- R85 rows that need the second fold or the freeze. -/
theorem test_folding_rows :
    fold (2 ^ 131 - 1) = 2 ^ 130 + 4 ∧ reduceByFolding (2 ^ 131 - 1) = 9 ∧
    reduceByFolding (2 ^ 130 - 1) = 4 ∧ reduceByFolding (2 ^ 131 - 10) = 0 ∧
    reduceByFolding (2 ^ 255 - 1) = 0x09fffffffffffffffffffffffffffffff := by decide

/-- Section 2.5: bits of f dropped, no reduction after the addition, a non-canonical operand. -/
theorem test_tag_rows :
    tagOf (2 ^ 129 + 7) 1 = 0x08#8 :: List.replicate 15 0x00#8 ∧
    tagOf (2 ^ 130 - 6) 6 = List.replicate 16 0x00#8 ∧
    tagOf (2 ^ 130 - 2) 0 = 0x03#8 :: List.replicate 15 0x00#8 := by decide

/-- Section 2.8: Kseq, M[i] = 0x80 + i, L = 33. -/
theorem test_mac_row :
    mac seqKey ((List.range 33).map fun i => BitVec.ofNat 8 (0x80 + i)) =
      [0x58#8, 0x5b#8, 0xb3#8, 0x85#8, 0xc4#8, 0x06#8, 0xa8#8, 0x0e#8,
       0x14#8, 0x8b#8, 0xe0#8, 0xd1#8, 0x35#8, 0xd3#8, 0x41#8, 0xd1#8] := by decide

/-! ### The commands, one step each -/

/-- R99 example: STATUS after INIT. -/
theorem test_init_status :
    statusOut (nextOr State.reset (exec .init State.reset)) = 0b010000#6 := by decide

/-- R98: NOP with LIVE = 0 and operands on the pins. -/
theorem test_nop :
    nextOr State.reset (exec .nop (spentWith (updatePort 3 sourceBlock seqKey))) =
      spentWith (updatePort 3 sourceBlock seqKey) := by decide

/-- R100 example, program P1, first UPDATE. -/
theorem test_update16_absorbs :
    (nextOr State.reset (exec .update16 (stateWith 0#130 [] (updatePort 16 sourceBlock sourceKey)))).acc =
      0x2c88c77849d64ae9147ddeb88e69c83fc#130 := by decide

/-- Program P5, second UPDATE: BUFLEN = 15 and 16 bytes absorb one block and leave 15 bytes. -/
theorem test_update16_full_buffer :
    (let t := nextOr State.reset (exec .update16
      (stateWith 0#130 fifteen (updatePort 16 0x9e9d9c9b9a999897969594939291908f#128 seqKey)));
     t.acc = 0x283d52ed0fbefed34049f4433adf343dd#130 ∧ t.buflen = 15#4 ∧ t.buf[0] = 0x90#8 ∧
       t.buf[14] = 0x9e#8) := by decide

/-- Program P5, fourth UPDATE: one byte, nothing absorbed, the unread lanes ignored. -/
theorem test_update_one_byte :
    (let t := nextOr State.reset (exec (.update 1#4)
      (stateWith 7#130 [] (updatePort 1 0x00112233445566778899aabbccddeea0#128 seqKey)));
     t.acc = 7#130 ∧ t.buflen = 1#4 ∧ t.buf[0] = 0xa0#8 ∧ t.buf[1] = 0x00#8 ∧
       t.rc = 0x0f0e0d0c0b0a09080706050403020100#128) := by decide

/-- Section 2.7: BUFLEN = 15 and one byte complete a block. -/
theorem test_update_completes_block :
    (let t := nextOr State.reset (exec (.update 1#4) (stateWith 0#130 fifteen (updatePort 1 0x8f#128 seqKey)));
     t.buflen = 0#4 ∧ t.buf = fillBuf [] ∧ t.acc = 0x283d52ed0fbefed34049f4433adf343dd#130) := by decide

/-- R101 example. -/
theorem test_final_tag :
    (let t := nextOr State.reset (exec .final
      (stateWith 0x2d8adaf23b0337fa7cccfb4ea344b30de#130 [0x75#8, 0x70#8] (finalPort 0#128 sourceKey)));
     t.tag = 0xa927010caf8b2bc2c6365130c11d06a8#128 ∧ t.tv = true ∧ t.live = false) := by decide

/-- Program P3: the empty message has the tag KEY[16..31]. -/
theorem test_final_empty_message :
    (nextOr State.reset (exec .final (stateWith 0#130 [] (finalPort 0#128 sourceKey)))).tag =
      0x1bf54941aff6bf4afdb20dfb8a800301#128 := by decide

/-- R59: the listing of the third command of program P1 up to its key, and a whole listing of INIT. -/
theorem test_listing :
    (listing (.update 2#4) 0x7075#128 seqKey).take 31 =
      ['U', 'P', 'D', 'A', 'T', 'E', ' ', ' ', 'l', 'e', 'n', '=', '2', ',', ' ', 'd', 'i', 'n', '=',
       '7', '5', '7', '0', ',', ' ', 'k', 'e', 'y', '=', '0', '0'] ∧
    machineForm .init 0#128 0#256 = ['C', 'W', '=', '0', 'x', '2', '0'] := by decide

/-! ### Witnesses: the hypotheses of each statement can be met -/

/-- The reset state with a host script. -/
def scripted (ps : List Port) : State := { State.reset with script := ps }

theorem witness_StepRunsDecodedInstruction :
    (scripted [updatePort 3 0#128 seqKey]).script = updatePort 3 0#128 seqKey :: [] ∧
    (updatePort 3 0#128 seqKey).rst = false ∧ (updatePort 3 0#128 seqKey).cmdValid = true ∧
    decode (updatePort 3 0#128 seqKey).cw = .ok (.update 3#4) := ⟨rfl, by decide⟩

theorem witness_PlacedTableWordRunsNext : decodeTableWord 8 0x50 = some .update16 := by decide

/-- A word at the lower and at the upper edge of the reserved lengths of UPDATE. -/
theorem witness_ReservedWordsAreRefused :
    CommandWord.defined (commandPort 0x51#7 0#128 0#256).cw = false ∧
    CommandWord.defined (commandPort 0x5f#7 0#128 0#256).cw = false ∧
    step (scripted [commandPort 0x51#7 0#128 0#256]) = .refused (.reservedWord (.updateTooLong 17#5)) :=
  ⟨by decide, by decide, rfl⟩

theorem witness_NothingHappensWithoutCommand :
    State.reset.script = [] ∧
    ((scripted [idlePort]).script = idlePort :: [] ∧ idlePort.rst = false ∧ idlePort.cmdValid = false) :=
  ⟨rfl, rfl, rfl, rfl⟩

theorem witness_ResetClearsBothFlags :
    (scripted [resetPort]).script = resetPort :: [] ∧ resetPort.rst = true := ⟨rfl, rfl⟩

theorem witness_EveryCommandCompletes :
    ∀ p rest, (scripted [initPort 0#128 0#256]).script = p :: rest → p.wellFormed = true := by
  intro p rest h
  have hp : initPort 0#128 0#256 = p := (List.cons.inj h).1
  rw [← hp]
  decide

/-- A live state that meets the invariant and holds pending bytes. -/
theorem stateWith_sound : (stateWith 5#130 [0x75#8, 0x70#8] idlePort).Sound :=
  ⟨fun _ => by unfold State.Canonical; decide, by decide⟩

theorem witness_StepsKeepSoundness :
    (stateWith 5#130 [0x75#8, 0x70#8] idlePort).Sound ∧
    step (stateWith 5#130 [0x75#8, 0x70#8] idlePort) = .next (stateWith 5#130 [0x75#8, 0x70#8] idlePort) :=
  ⟨stateWith_sound, rfl⟩

/-- Both clauses of the UPDATE statement, at the values where they meet: BUFLEN + len = 15, 16 and 31. -/
theorem witness_UpdateFoldsBeatIntoAccumulator :
    Instr.isUpdate (.update 0#4) = true ∧ Instr.isUpdate .update16 = true ∧
    (stateWith 0#130 fifteen idlePort).live = true ∧
    (stateWith 0#130 fifteen idlePort).buflen.toNat + Instr.beatLength (.update 0#4) = 15 ∧
    (stateWith 0#130 fifteen idlePort).buflen.toNat + Instr.beatLength (.update 1#4) = 16 ∧
    (stateWith 0#130 fifteen idlePort).buflen.toNat + Instr.beatLength .update16 = 31 := by decide

/-- Both clauses of the FINAL statement: BUFLEN = 0 and BUFLEN = 1. -/
theorem witness_FinalProducesTag :
    (stateWith 0#130 [] idlePort).live = true ∧ (stateWith 0#130 [] idlePort).buflen.toNat = 0 ∧
    (stateWith 0#130 [0#8] idlePort).live = true ∧ (stateWith 0#130 [0#8] idlePort).buflen.toNat = 1 := by
  decide

theorem witness_SpentStateCommandsComplete :
    Instr.isUpdate (.update 3#4) = true ∧ (spentWith idlePort).live = false := by decide

/-- Each conditional clause of the frame has a command that answers a next state and meets its premises. -/
theorem witness_CommandsChangeOnlyTheirRegisters :
    exec .nop (stateWith 0#130 [] idlePort) = .next (stateWith 0#130 [] idlePort) ∧
    Instr.isUpdate (.update 15#4) = true ∧ (stateWith 0#130 [] idlePort).live = true ∧
    (stateWith 0#130 [] idlePort).buflen.toNat + Instr.beatLength (.update 15#4) < 16 :=
  ⟨rfl, by decide⟩

theorem witness_EmptyBeatChangesOnlyMultiplier :
    (stateWith 5#130 [0x75#8, 0x70#8] idlePort).Sound ∧
    (stateWith 5#130 [0x75#8, 0x70#8] idlePort).live = true := ⟨stateWith_sound, rfl⟩

theorem witness_EmptyMessageTagIsKeyHalf :
    (stateWith 0#130 [] idlePort).live = true ∧ (stateWith 0#130 [] idlePort).acc = 0#130 ∧
    (stateWith 0#130 [] idlePort).buflen = 0#4 := by decide

/-- Other data above lane 2 and another upper key half, beside an UPDATE of 2 bytes. -/
theorem witness_UpdateIgnoresUnreadLanes :
    Instr.isUpdate (.update 2#4) = true ∧
    (∀ j, j < Instr.beatLength (.update 2#4) → dinByte 0xffff7075#128 j = dinByte 0x7075#128 j) ∧
    (∀ j, j < 16 → keyByte (0x1#256 <<< 128) j = keyByte 0#256 j) ∧ (0x1#256 <<< 128) ≠ 0#256 := by decide

theorem witness_OtherCommandsIgnoreUnreadPorts :
    (Instr.nop = .nop ∨ Instr.nop = .init) ∧ (Instr.init = .nop ∨ Instr.init = .init) := by decide

theorem witness_OldMultiplierIsNeverRead :
    (stateWith 0#130 [] idlePort).live = true ∧ Instr.isUpdate (.update 2#4) = true := by decide

/-- Buffers that differ at index 2 while BUFLEN = 2. -/
theorem witness_UnusedBufferBytesAreNotRead :
    (stateWith 0#130 [0x75#8, 0x70#8] idlePort).live = true ∧
    (∀ j : Fin 15, j.val < (stateWith 0#130 [0x75#8, 0x70#8] idlePort).buflen.toNat →
      (fillBuf [0x75#8, 0x70#8, 0xff#8])[j] = (stateWith 0#130 [0x75#8, 0x70#8] idlePort).buf[j]) ∧
    fillBuf [0x75#8, 0x70#8, 0xff#8] ≠ (stateWith 0#130 [0x75#8, 0x70#8] idlePort).buf := by decide

/-- Live states that differ in ACC and key and show the same STATUS. -/
theorem witness_StatusDependsOnLengthOnly :
    (stateWith 5#130 [0x75#8] (updatePort 3 0#128 seqKey)).live = true ∧
    (stateWith 6#130 [0x00#8] (updatePort 3 0#128 sourceKey)).live = true ∧
    statusOut (stateWith 5#130 [0x75#8] (updatePort 3 0#128 seqKey)) =
      statusOut (stateWith 6#130 [0x00#8] (updatePort 3 0#128 sourceKey)) := by decide

/-- Both counts of an UPDATE, where they meet (BUFLEN + len = 15 and 16) and at the top (31), and both counts of a
FINAL (BUFLEN = 0 and 1), on live states. -/
theorem witness_AbsorbedBlocksAreCountedByLength :
    Instr.isUpdate (.update 1#4) = true ∧ Instr.isUpdate .update16 = true ∧
    (stateWith 0#130 fifteen idlePort).live = true ∧ (stateWith 0#130 [] idlePort).live = true ∧
    absorbCount (.update 0#4) (stateWith 0#130 fifteen idlePort).buflen = 0 ∧
    absorbCount (.update 1#4) (stateWith 0#130 fifteen idlePort).buflen = 1 ∧
    absorbCount .update16 (stateWith 0#130 fifteen idlePort).buflen = 1 ∧
    absorbCount .final (stateWith 0#130 [] idlePort).buflen = 0 ∧
    absorbCount .final (stateWith 0#130 [0#8] idlePort).buflen = 1 := by decide

theorem witness_LittleEndianIsInvertible : 15 < 16 ∧ 0xffff < 2 ^ (8 * 2) := by decide

/-- Block lengths at both ends of the range, and the two widths beside the full block. -/
theorem witness_BlockIntegersAreUnambiguous :
    1 ≤ [0x00#8].length ∧ [0x00#8].length ≤ 16 ∧ 1 ≤ fifteen.length ∧ fifteen.length ≤ 15 ∧
    1 ≤ (List.replicate 16 0xff#8).length ∧ (List.replicate 16 0xff#8).length = 16 := by decide

theorem witness_IntermediateValuesFitTheirWidths :
    2 ^ 130 - 6 < 2 ^ 130 - 5 ∧ 1 ≤ (List.replicate 16 0xff#8).length ∧
    (List.replicate 16 0xff#8).length ≤ 16 := by decide

/-- The largest operand of each clause. -/
theorem witness_FoldKeepsResidueAndShrinks :
    2 ^ 130 - 1 < 2 ^ 130 ∧ 2 ^ 255 - 1 < 2 ^ 255 ∧
    2 ^ 130 + 5 * 2 ^ 125 - 1 < 2 ^ 130 + 5 * 2 ^ 125 := by decide

/-- P - 1 and P, on the two sides of the subtraction. -/
theorem witness_FreezeIsRemainder : 2 ^ 130 - 6 < 2 ^ 130 ∧ 2 ^ 130 - 5 < 2 ^ 130 := by decide

theorem witness_FoldingUnitComputesRemainder : 2 ^ 255 - 1 < 2 ^ 255 := by decide

theorem witness_TagIsReducedSumSerialized : 2 ^ 130 - 1 < 2 ^ 130 := by decide

/-- Two representatives of the residue 3. -/
theorem witness_OnlyTheResidueMatters :
    3 % (2 ^ 130 - 5) = (2 ^ 130 - 2) % (2 ^ 130 - 5) ∧ 3 < 2 ^ 130 ∧ 2 ^ 130 - 2 < 2 ^ 130 := by decide

/-- A half r that is not zero and clamps to zero (section 2.8). -/
theorem witness_ZeroMultiplierTagIsKeyHalf :
    multiplier 0xf0000003f0000003f0000003f0000000#256 = 0#128 := by decide

/-- A live state just after INIT tracks the empty message under the key on its pins. -/
theorem witness_UpdatesExtendTheInvariant :
    Instr.isUpdate .update16 = true ∧
    (stateWith 0#130 [] (updatePort 16 sourceBlock sourceKey)).Tracks sourceKey [] false :=
  ⟨rfl, rfl, rfl, rfl, rfl, rfl⟩

theorem witness_FinalGivesMacOfTrackedMessage :
    (stateWith 0#130 [] (finalPort 0#128 sourceKey)).Tracks sourceKey [] false :=
  ⟨rfl, rfl, rfl, rfl, rfl⟩

/-- NOP, then INIT, a pause, a beat of 2 bytes, NOP, FINAL, and a pause. -/
theorem witness_BeatBoundariesDoNotMatter :
    (∀ p ∈ [nopPort 0#128 0#256], quiet p) ∧ offeredCommand (initPort 0#128 0#256) = some .init ∧
    (∀ p ∈ [idlePort, beatPort [0x75#8, 0x70#8] seqKey, nopPort 0#128 0#256], p.inMessage seqKey) ∧
    offeredCommand (finalPort 0#128 seqKey) = some .final ∧ (finalPort 0#128 seqKey).key = seqKey ∧
    (∀ p ∈ [idlePort], quiet p) ∧
    deliveredMessage [idlePort, beatPort [0x75#8, 0x70#8] seqKey, nopPort 0#128 0#256] =
      [0x75#8, 0x70#8] := by
  refine ⟨?_, by decide, ?_, by decide, rfl, ?_, by decide⟩
  · intro p hp
    rw [List.mem_singleton.mp hp]
    exact ⟨rfl, .inr (by decide)⟩
  · intro p hp
    simp only [List.mem_cons, List.not_mem_nil, or_false] at hp
    rcases hp with rfl | rfl | rfl
    · exact ⟨rfl, .inl rfl⟩
    · exact ⟨rfl, .inr (.inr ⟨.update 2#4, by decide, rfl, rfl⟩)⟩
    · exact ⟨rfl, .inr (.inl (by decide))⟩
  · intro p hp
    rw [List.mem_singleton.mp hp]
    exact ⟨rfl, .inl rfl⟩

theorem witness_AuthComputesMac :
    (scripted (auth seqKey [0x75#8])).script = auth seqKey [0x75#8] ++ [] := by
  rw [List.append_nil]
  rfl

/-- A whole message, then a reset, keeps the contract from the closed phase. -/
theorem witness_ContractKeepingRunsComplete :
    (scripted (auth seqKey [0x75#8] ++ [resetPort])).live = Phase.live .closed ∧
    Phase.afterAll .closed (scripted (auth seqKey [0x75#8] ++ [resetPort])).script = some .closed :=
  ⟨rfl, by simp only [scripted]; decide⟩

/-- Two instances, an event at the first. -/
theorem witness_InstancesShareNothing :
    ([scripted [initPort 0#128 0#256], State.reset] : Instances)[0]? = some (scripted [initPort 0#128 0#256]) ∧
    Completes (step (scripted [initPort 0#128 0#256])) := ⟨rfl, _, rfl⟩

theorem witness_DecodeAndEncodeAgree : decode 0x4f#7 = .ok (.update 15#4) ∧ Instr.isUpdate .update16 = true := by
  decide

theorem witness_OpcodeTableClassifiesEveryWord :
    decode 0x50#7 = .ok .update16 ∧ decode 0x51#7 = .error (.updateTooLong 17#5) := by decide

end Sys2Proof.Tests
end

section
/-! PROOFS. LE and LEBYTES_n as the spec writes them, and that each undoes the other (R9). -/

namespace Sys2Proof.Machine

theorem le_eq_sum (bs : List Byte) :
    le bs = ∑ i ∈ Finset.range bs.length, (bs.getD i 0#8).toNat * 2 ^ (8 * i) := by
  induction bs with
  | nil => rfl
  | cons b bs ih =>
    rw [le_cons, ih, List.length_cons, Finset.sum_range_succ', Finset.mul_sum, Nat.add_comm]
    congr 1
    · refine Finset.sum_congr rfl fun i _ => ?_
      rw [List.getD_cons_succ, Nat.mul_succ, pow_add]
      ring
    · simp

@[simp] theorem leBytes_zero (v : Nat) : leBytes 0 v = [] := rfl

@[simp] theorem leBytes_succ (n v : Nat) :
    leBytes (n + 1) v = BitVec.ofNat 8 v :: leBytes n (v / 256) := rfl

theorem leBytes_getElem? {n i : Nat} (v : Nat) (hi : i < n) :
    (leBytes n v)[i]? = some (BitVec.ofNat 8 (v / 2 ^ (8 * i))) := by
  induction n generalizing v i with
  | zero => exact absurd hi (Nat.not_lt_zero i)
  | succ n ih =>
    cases i with
    | zero => simp
    | succ i =>
      have hshift : v / 256 / 2 ^ (8 * i) = v / 2 ^ (8 * (i + 1)) := by
        rw [Nat.div_div_eq_div_mul, show 256 = 2 ^ 8 from rfl, ← pow_add, Nat.mul_succ, Nat.add_comm 8]
      rw [leBytes_succ, List.getElem?_cons_succ, ih _ (Nat.lt_of_succ_lt_succ hi), hshift]

/-- LEBYTES_n keeps the low 8n bits of a value of any width. -/
theorem le_leBytes (n v : Nat) : le (leBytes n v) = v % 2 ^ (8 * n) := by
  induction n generalizing v with
  | zero => simp [Nat.mod_one]
  | succ n ih =>
    rw [leBytes_succ, le_cons, ih, BitVec.toNat_ofNat, Nat.mul_succ, Nat.add_comm (8 * n), pow_add,
      Nat.mod_mul, show 256 = 2 ^ 8 from rfl]

theorem le_leBytes_of_lt {n v : Nat} (hv : v < 2 ^ (8 * n)) : le (leBytes n v) = v := by
  rw [le_leBytes, Nat.mod_eq_of_lt hv]

/-- Both sides have one length and one value, and a byte string is determined by these. -/
theorem leBytes_le (bs : List Byte) : leBytes bs.length (le bs) = bs :=
  le_injective (leBytes_length _ _) (le_leBytes_of_lt (le_lt bs))

/-- Settles O28: the sum and the byte positions by induction along the bytes, the round trips from the value of
LEBYTES_n and from LE being injective on byte strings of one length. -/
theorem littleEndianIsInvertible : Obligations.LittleEndianIsInvertible :=
  ⟨le_eq_sum, fun _ v _ hi => leBytes_getElem? v hi, fun _ _ hv => le_leBytes_of_lt hv, leBytes_le⟩

end Sys2Proof.Machine
end

section
/-! PROOFS. What every command does with the registers, said once: which state it answers, what becomes of
LIVE, and how many bytes an UPDATE leaves pending. -/

namespace Sys2Proof.Machine

/-- An UPDATE of either row is a beat of its length (log 12). -/
theorem exec_of_isUpdate {i : Instr} (h : i.isUpdate = true) (s : State) :
    exec i s = .next (updateBeat i.beatLength s) :=
  exec_of_length i (by refine ⟨?_, ?_, ?_⟩ <;> rintro rfl <;> cases h) s

theorem exec_update_of_live {i : Instr} (h : i.isUpdate = true) {s : State} (hl : s.live = true) :
    exec i s = .next (updateLive i.beatLength s) := by
  rw [exec_of_isUpdate h, updateBeat_of_live hl]

/-- Everything a command can do when it answers a next state, by the two cases of LIVE for an UPDATE. -/
theorem exec_cases {i : Instr} {s t : State} (h : exec i s = .next t) :
    (i = .nop ∧ t = s) ∨ (i = .init ∧ t = startMessage s) ∨
    (i.isUpdate = true ∧ s.live = true ∧ t = updateLive i.beatLength s) ∨
    (i.isUpdate = true ∧ s.live = false ∧ t = updateSpent i.beatLength s) ∨
    (i = .final ∧ t = closeMessage s) := by
  by_cases hi : i.isUpdate = true
  · rw [exec_of_isUpdate hi, Host.Outcome.next.injEq] at h
    subst h
    rcases hl : s.live with _ | _
    · exact .inr (.inr (.inr (.inl ⟨hi, rfl, updateBeat_of_spent hl _⟩)))
    · exact .inr (.inr (.inl ⟨hi, rfl, updateBeat_of_live hl _⟩))
  · cases i with
    | nop => exact .inl ⟨rfl, (Host.Outcome.next.inj h).symm⟩
    | init => exact .inr (.inl ⟨rfl, (Host.Outcome.next.inj h).symm⟩)
    | update len => exact absurd rfl hi
    | update16 => exact absurd rfl hi
    | final => exact .inr (.inr (.inr (.inr ⟨rfl, (Host.Outcome.next.inj h).symm⟩)))

theorem exec_completes (i : Instr) (s : State) : Completes (exec i s) := by
  cases i <;> exact ⟨_, rfl⟩

/-- LIVE after a command, from LIVE before it (R20). -/
def liveAfter (i : Instr) (live : Bool) : Bool :=
  match i with
  | .nop => live
  | .init => true
  | .update _ => live
  | .update16 => live
  | .final => false

theorem liveAfter_of_isUpdate {i : Instr} (h : i.isUpdate = true) (live : Bool) : liveAfter i live = live := by
  cases i with
  | nop => cases h
  | init => cases h
  | update len => rfl
  | update16 => rfl
  | final => cases h

theorem exec_live {i : Instr} {s t : State} (h : exec i s = .next t) : t.live = liveAfter i s.live := by
  rcases exec_cases h with ⟨rfl, rfl⟩ | ⟨rfl, rfl⟩ | ⟨hi, -, rfl⟩ | ⟨hi, -, rfl⟩ | ⟨rfl, rfl⟩
  · rfl
  · rfl
  · rw [updateLive_live, liveAfter_of_isUpdate hi]
  · rw [updateSpent_live, liveAfter_of_isUpdate hi]
  · rfl

/-- BUFLEN counts the pending bytes modulo 16 (R100). -/
theorem updateLive_buflen_toNat {n : Nat} (hn : n ≤ 16) (s : State) :
    (updateLive n s).buflen.toNat = (s.buflen.toNat + n) % 16 := by
  have hlen : (gatheredBytes n s).length ≤ 31 := by
    have := s.buflen.isLt
    rw [gatheredBytes_length]
    omega
  rw [updateLive_buflen, BitVec.toNat_ofNat, (leftover_length hlen).1, gatheredBytes_length]
  exact Nat.mod_mod _ _

theorem fillBuf_getElem_of_length_le {bytes : List Byte} {j : Nat} (hj : j < 15) (h : bytes.length ≤ j) :
    (fillBuf bytes)[j] = 0#8 := by
  rw [fillBuf_getElem, List.getD_eq_default _ _ h]
  rfl

end Sys2Proof.Machine
end

section
/-! PROOFS. The invariant of the registers (R14, R18, R20, R21, R68), one lemma for each thing an event can do. -/

namespace Sys2Proof.Machine

/-- With LIVE = 0 nothing is asked of the registers. -/
theorem sound_of_spent {s : State} (h : s.live = false) : s.Sound := by
  simp [State.Sound, h]

theorem nextPins_sound {s : State} (h : s.Sound) : (nextPins s).Sound := by
  rcases hs : s.script with _ | ⟨p, rest⟩
  · rw [nextPins_nil hs]
    exact h
  · rw [nextPins_cons hs]
    exact h

theorem startMessage_sound (s : State) : (startMessage s).Sound := by
  have hcanonical : (startMessage s).Canonical :=
    ⟨prime_pos, Nat.two_pow_pos 124, fun j _ => fillBuf_getElem_of_length_le j.isLt (Nat.zero_le j)⟩
  exact ⟨fun _ => hcanonical, by simp⟩

theorem updateLive_canonical {n : Nat} (hn : n ≤ 16) {s : State} (h : s.Canonical) :
    (updateLive n s).Canonical := by
  obtain ⟨hacc, -, -⟩ := h
  have hfill (j : Fin 15) (hj : (updateLive n s).buflen.toNat ≤ j) : (updateLive n s).buf[j] = 0#8 := by
    refine fillBuf_getElem_of_length_le j.isLt ?_
    rwa [← pendingBytes_updateLive hn s, pendingBytes_length]
  exact ⟨absorbFirst_lt hacc _ _, multiplier_lt _, hfill⟩

theorem updateLive_sound {n : Nat} (hn : n ≤ 16) {s : State} (h : s.Sound) : (updateLive n s).Sound := by
  obtain ⟨hcanonical, hflags⟩ := h
  exact ⟨fun hl => updateLive_canonical hn (hcanonical hl), hflags⟩

theorem exec_sound {i : Instr} {s t : State} (h : s.Sound) (he : exec i s = .next t) : t.Sound := by
  rcases exec_cases he with ⟨-, rfl⟩ | ⟨-, rfl⟩ | ⟨-, -, rfl⟩ | ⟨-, hl, rfl⟩ | ⟨-, rfl⟩
  · exact h
  · exact startMessage_sound s
  · exact updateLive_sound (beatLength_le i) h
  · exact sound_of_spent hl
  · exact sound_of_spent (closeMessage_live s)

theorem accept_sound {s t : State} (h : s.Sound) (ha : accept s = .next t) : t.Sound := by
  rcases accept_cases ha with ⟨-, rfl⟩ | ⟨-, -, rfl⟩ | ⟨-, -, i, -, he⟩
  · exact sound_of_spent (resetRegisters_live s)
  · exact h
  · exact exec_sound h he

/-- Settles O12: presenting the pins keeps the registers, and each thing an event can do then keeps the invariant:
an UPDATE on a live state by the ranges of its results, INIT by its constants; NOP changes nothing, and after the
others LIVE = 0. -/
theorem stepsKeepSoundness : Obligations.StepsKeepSoundness :=
  fun _ _ hs ht => accept_sound (nextPins_sound hs) ht

end Sys2Proof.Machine
end

section
/-! PROOFS. The accumulator invariant of a message (R15): what more bytes do to the full blocks of a message and
to its tail, and that INIT begins and every UPDATE extends the invariant. -/

namespace Sys2Proof.Machine

/-! More bytes after a message (R15). -/

@[simp] theorem tailBytes_length (msg : List Byte) : (tailBytes msg).length = msg.length % 16 := by
  rw [tailBytes, List.length_drop]
  omega

/-- More bytes leave the full blocks of a message as they are. -/
theorem messageBlock_append {msg : List Byte} {i : Nat} (hi : 16 * (i + 1) ≤ msg.length) (bs : List Byte) :
    messageBlock (msg ++ bs) i = messageBlock msg i := by
  rw [messageBlock, messageBlock, List.drop_append_of_le_length (by omega),
    List.take_append_of_le_length (by rw [List.length_drop]; omega)]

theorem chainValue_append (rc : Nat) {msg : List Byte} {k : Nat} (hk : 16 * k ≤ msg.length) (bs : List Byte) :
    chainValue rc (msg ++ bs) k = chainValue rc msg k := by
  induction k with
  | zero => rfl
  | succ k ih => rw [chainValue, chainValue, ih (by omega), messageBlock_append hk]

/-- The tail of a message and what follows it, as what stands after the full blocks of the message. -/
theorem tailBytes_append (msg bs : List Byte) :
    tailBytes msg ++ bs = (msg ++ bs).drop (16 * (msg.length / 16)) := by
  rw [tailBytes, List.drop_append_of_le_length (by omega)]

/-- BUF after a beat: what T leaves over is the tail of the longer message. -/
theorem leftover_tailBytes_append (msg : List Byte) {bs : List Byte} (hbs : bs.length ≤ 16) :
    leftover (tailBytes msg ++ bs) = tailBytes (msg ++ bs) := by
  rw [leftover, List.length_append, tailBytes_length, tailBytes_append, tailBytes, List.length_append]
  split
  case isTrue hfull =>
    rw [List.drop_drop]
    congr 1
    omega
  case isFalse hshort =>
    congr 2
    omega

/-- ACC after a beat: the block that T completes, if any, is the next block of the longer message. -/
theorem absorbFirst_tailBytes_append {acc : BitVec 130} {rc : BitVec 128} {msg : List Byte}
    (hacc : acc.toNat = chainValue rc.toNat msg (msg.length / 16)) {bs : List Byte} (hbs : bs.length ≤ 16) :
    (absorbFirst acc (tailBytes msg ++ bs) rc).toNat =
      chainValue rc.toNat (msg ++ bs) ((msg ++ bs).length / 16) := by
  have hchain : acc.toNat = chainValue rc.toNat (msg ++ bs) (msg.length / 16) := by
    rw [hacc, chainValue_append _ (by omega)]
  have hlen : (tailBytes msg ++ bs).length = msg.length % 16 + bs.length := by simp
  rw [List.length_append]
  by_cases hfull : 16 ≤ msg.length % 16 + bs.length
  · have hcount : (msg.length + bs.length) / 16 = msg.length / 16 + 1 := by omega
    rw [absorbFirst_full (by rwa [hlen]), hcount, chainValue, hchain, tailBytes_append, messageBlock]
  · have hcount : (msg.length + bs.length) / 16 = msg.length / 16 := by omega
    rw [absorbFirst_short (by omega), hcount, hchain]

/-! The invariant. -/

/-- The pending bytes of a state that tracks a message are the tail of the message. -/
theorem pendingBytes_of_tracks {key : Lanes32} {msg : List Byte} {updated : Bool} {s : State}
    (h : s.Tracks key msg updated) : pendingBytes s = tailBytes msg := by
  obtain ⟨-, hbuflen, hbuf, -, -⟩ := h
  rw [pendingBytes, hbuflen, hbuf, ← tailBytes_length]
  exact fillBuf_take _ (by rw [tailBytes_length]; omega)

theorem live_of_tracks {key : Lanes32} {msg : List Byte} {updated : Bool} {s : State}
    (h : s.Tracks key msg updated) : s.live = true := by
  obtain ⟨-, -, -, -, hlive⟩ := h
  exact hlive

theorem updateLive_tracks {n : Nat} (hn : n ≤ 16) {s : State} {msg : List Byte} {updated : Bool}
    (h : s.Tracks s.port.key msg updated) :
    (updateLive n s).Tracks s.port.key (msg ++ beatBytes n s.port.din) true := by
  have hgathered : gatheredBytes n s = tailBytes msg ++ beatBytes n s.port.din := by
    rw [gatheredBytes, pendingBytes_of_tracks h]
  have hbeat : (beatBytes n s.port.din).length ≤ 16 := by rwa [beatBytes_length]
  obtain ⟨hacc, hbuflen, -, -, hlive⟩ := h
  refine ⟨?acc, ?buflen, ?buf, rfl, hlive⟩
  case acc => rw [updateLive_acc, hgathered, absorbFirst_tailBytes_append hacc hbeat]
  case buflen => rw [updateLive_buflen_toNat hn, hbuflen, List.length_append, beatBytes_length, Nat.mod_add_mod]
  case buf => rw [updateLive_buf, hgathered, leftover_tailBytes_append msg hbeat]

/-- Settles O43: the pending bytes are the tail of the message, so what the beat completes and leaves over is the
next block and the tail of the longer message. -/
theorem updatesExtendTheInvariant : Obligations.UpdatesExtendTheInvariant := by
  intro i s msg updated hi h
  exact ⟨updateLive i.beatLength s, exec_update_of_live hi (live_of_tracks h),
    updateLive_tracks (beatLength_le i) h⟩

theorem startMessage_tracks (s : State) (key : Lanes32) : (startMessage s).Tracks key [] false :=
  ⟨rfl, rfl, rfl, rfl, rfl⟩

/-- Settles O42: the registers that INIT writes are those the invariant gives for no bytes (R99). -/
theorem initBeginsTheInvariant : Obligations.InitBeginsTheInvariant :=
  fun s key => ⟨startMessage s, exec_init s, startMessage_tracks s key⟩

end Sys2Proof.Machine
end

section
/-! PROOFS. What a command leaves unchanged when it answers a next state (R24, R31, R39). -/

namespace Sys2Proof.Machine

open Certificates

theorem exec_sameInputs {i : Instr} {s t : State} (h : exec i s = .next t) : sameInputs s t := by
  rcases exec_cases h with ⟨-, rfl⟩ | ⟨-, rfl⟩ | ⟨-, -, rfl⟩ | ⟨-, -, rfl⟩ | ⟨-, rfl⟩ <;> exact ⟨rfl, rfl⟩

theorem exec_tag {i : Instr} {s t : State} (h : exec i s = .next t) (hi : i ≠ .final) : t.tag = s.tag := by
  rcases exec_cases h with ⟨-, rfl⟩ | ⟨-, rfl⟩ | ⟨-, -, rfl⟩ | ⟨-, -, rfl⟩ | ⟨hfinal, -⟩
  · rfl
  · exact startMessage_tag s
  · exact updateLive_tag _ s
  · exact updateSpent_tag _ s
  · exact absurd hfinal hi

theorem exec_flags {i : Instr} {s t : State} (h : exec i s = .next t) (hinit : i ≠ .init)
    (hfinal : i ≠ .final) : t.live = s.live ∧ t.tv = s.tv := by
  rcases exec_cases h with ⟨-, rfl⟩ | ⟨hi, -⟩ | ⟨-, -, rfl⟩ | ⟨-, -, rfl⟩ | ⟨hi, -⟩
  · exact ⟨rfl, rfl⟩
  · exact absurd hi hinit
  · exact ⟨updateLive_live _ s, updateLive_tv _ s⟩
  · exact ⟨updateSpent_live _ s, updateSpent_tv _ s⟩
  · exact absurd hi hfinal

/-- Nothing is drawn but by FINAL and on a spent state (R30, R102). -/
theorem exec_draws {i : Instr} {s t : State} (h : exec i s = .next t) (hi : i ≠ .final)
    (hl : s.live = true) : t.draws = s.draws := by
  rcases exec_cases h with ⟨-, rfl⟩ | ⟨-, rfl⟩ | ⟨-, -, rfl⟩ | ⟨-, hspent, -⟩ | ⟨hfinal, -⟩
  · rfl
  · exact startMessage_draws s
  · exact updateLive_draws _ s
  · rw [hl] at hspent
    cases hspent
  · exact absurd hfinal hi

/-- A beat that completes no block leaves ACC alone (R100). -/
theorem updateLive_acc_of_short {n : Nat} {s : State} (h : s.buflen.toNat + n < 16) :
    (updateLive n s).acc = s.acc := by
  rw [updateLive_acc, absorbFirst_short (by rwa [gatheredBytes_length])]

theorem exec_update_acc {i : Instr} {s t : State} (h : exec i s = .next t) (hi : i.isUpdate = true)
    (hl : s.live = true) (hshort : s.buflen.toNat + i.beatLength < 16) : t.acc = s.acc := by
  rw [exec_update_of_live hi hl, Host.Outcome.next.injEq] at h
  rw [← h, updateLive_acc_of_short hshort]

theorem exec_nop_next {s t : State} (h : exec .nop s = .next t) : t = s := (Host.Outcome.next.inj h).symm

/-- Settles O18, one lemma for each clause of the frame. -/
theorem commandsChangeOnlyTheirRegisters : Obligations.CommandsChangeOnlyTheirRegisters := by
  intro i s t h
  refine ⟨exec_sameInputs h, exec_tag h, exec_flags h, ?nop, exec_draws h, exec_update_acc h⟩
  case nop =>
    rintro rfl
    rw [exec_nop_next h]
    exact ⟨⟨rfl, rfl, rfl, rfl, rfl, rfl, rfl⟩, rfl⟩

end Sys2Proof.Machine
end

section
/-! PROOFS. What no command reads: the old multiplier (R16) and the bytes of BUF from index BUFLEN on (R18). -/

namespace Sys2Proof.Machine

/-- Two live states answer the same to UPDATE and INIT when the effects of these two agree on them. -/
theorem exec_congr {s s' : State} (hl : s.live = true) (hl' : s'.live = true)
    (hinit : startMessage s' = startMessage s) (hupdate : ∀ n, updateLive n s' = updateLive n s)
    {i : Instr} (hi : i.isUpdate = true ∨ i = .init) : exec i s' = exec i s := by
  rcases hi with hi | rfl
  · rw [exec_update_of_live hi hl', exec_update_of_live hi hl, hupdate]
  · rw [exec_init, exec_init, hinit]

/-- The tag of FINAL on a live state is made of ACC, BUFLEN, the pending bytes and the key (R101). -/
theorem closingTag_congr {s s' : State} (hacc : s'.acc = s.acc) (hbuflen : s'.buflen = s.buflen)
    (hpending : pendingBytes s' = pendingBytes s) (hport : s'.port = s.port) :
    closingTag s' = closingTag s := by
  rw [closingTag, closingAcc, hacc, hbuflen, hpending, hport, ← closingAcc, ← closingTag]

theorem closeMessage_tag_of_live {s : State} (hl : s.live = true) : (closeMessage s).tag = closingTag s := by
  rw [closeMessage_tag, if_pos hl]

/-! The old multiplier. -/

theorem startMessage_withRc (s : State) (x : BitVec 128) : startMessage { s with rc := x } = startMessage s := rfl

theorem updateLive_withRc (n : Nat) (s : State) (x : BitVec 128) :
    updateLive n { s with rc := x } = updateLive n s := rfl

/-- Settles O23: INIT and UPDATE write RC and read only the other registers, and the tag of FINAL is made with the
multiplier of its own key. -/
theorem oldMultiplierIsNeverRead : Obligations.OldMultiplierIsNeverRead := by
  intro s x hl
  have hl' : ({ s with rc := x } : State).live = true := hl
  have htag : (closeMessage { s with rc := x }).tag = (closeMessage s).tag := by
    rw [closeMessage_tag_of_live hl', closeMessage_tag_of_live hl]
    exact closingTag_congr rfl rfl rfl rfl
  exact ⟨fun i hi => ⟨exec_congr hl hl' (startMessage_withRc s x) (fun n => updateLive_withRc n s x) hi,
      exec_completes i s⟩,
    closeMessage s, closeMessage { s with rc := x }, exec_final _, exec_final _, htag, rfl, rfl⟩

/-! The unused bytes of BUF. -/

theorem startMessage_withBuf (s : State) (buf : Vector Byte 15) :
    startMessage { s with buf := buf } = startMessage s := rfl

theorem updateLive_withBuf (n : Nat) {s : State} {buf : Vector Byte 15}
    (h : pendingBytes { s with buf := buf } = pendingBytes s) :
    updateLive n { s with buf := buf } = updateLive n s := by
  have hgathered : gatheredBytes n { s with buf := buf } = gatheredBytes n s := by
    rw [gatheredBytes, h, gatheredBytes]
  rw [updateLive, hgathered, updateLive]

/-- Settles O24: UPDATE and the tag of FINAL see BUF through the pending bytes alone, and INIT writes BUF. -/
theorem unusedBufferBytesAreNotRead : Obligations.UnusedBufferBytesAreNotRead := by
  intro s buf hl hsame
  have hl' : ({ s with buf := buf } : State).live = true := hl
  have hpending : pendingBytes { s with buf := buf } = pendingBytes s := pendingBytes_congr rfl hsame
  have htag : (closeMessage { s with buf := buf }).tag = (closeMessage s).tag := by
    rw [closeMessage_tag_of_live hl', closeMessage_tag_of_live hl]
    exact closingTag_congr rfl rfl hpending rfl
  exact ⟨fun i hi => ⟨exec_congr hl hl' (startMessage_withBuf s buf) (fun n => updateLive_withBuf n hpending) hi,
      exec_completes i s⟩,
    closeMessage s, closeMessage { s with buf := buf }, exec_final _, exec_final _, htag⟩

end Sys2Proof.Machine
end

section
/-! PROOFS. STATUS (R23): its fields, its value after reset (R28), and what it depends on (R103). -/

namespace Sys2Proof.Machine

theorem statusOut_bit_tv (s : State) : (statusOut s).getLsbD 5 = s.tv := by
  rw [statusOut, BitVec.getLsbD_append, BitVec.getLsbD_append]
  simp [flagBit]

theorem statusOut_bit_live (s : State) : (statusOut s).getLsbD 4 = s.live := by
  rw [statusOut, BitVec.getLsbD_append, BitVec.getLsbD_append]
  simp [flagBit]

theorem statusOut_low (s : State) : (statusOut s).extractLsb' 0 4 = s.buflen :=
  BitVec.extractLsb'_append_eq_right

theorem statusOut_high (s : State) : (statusOut s).extractLsb' 4 2 = flagBit s.tv ++ flagBit s.live :=
  BitVec.extractLsb'_append_eq_left

/-- Settles O26, a lemma for each field. -/
theorem statusWordLayout : Obligations.StatusWordLayout :=
  fun s => ⟨statusOut_bit_tv s, statusOut_bit_live s, statusOut_low s⟩

/-- Settles O10: the two upper bits of STATUS are the flags, which reset clears. -/
theorem resetStateFlagsAreClear : Obligations.ResetStateFlagsAreClear :=
  ⟨rfl, rfl, statusOut_high State.reset⟩

/-- Two states show the same STATUS exactly when TV, LIVE and BUFLEN agree. -/
theorem statusOut_eq_iff {s t : State} :
    statusOut s = statusOut t ↔ s.tv = t.tv ∧ s.live = t.live ∧ s.buflen = t.buflen := by
  constructor
  · intro h
    refine ⟨?tv, ?live, ?buflen⟩
    case tv => rw [← statusOut_bit_tv s, h, statusOut_bit_tv]
    case live => rw [← statusOut_bit_live s, h, statusOut_bit_live]
    case buflen => rw [← statusOut_low s, h, statusOut_low]
  · rintro ⟨htv, hlive, hbuflen⟩
    rw [statusOut, htv, hlive, hbuflen, ← statusOut]

theorem statusOut_startMessage_congr (s s' : State) :
    statusOut (startMessage s) = statusOut (startMessage s') :=
  statusOut_eq_iff.mpr ⟨rfl, rfl, rfl⟩

/-- STATUS after a beat on a live state is a function of STATUS and `len` (R103). -/
theorem statusOut_updateLive_congr {n : Nat} (hn : n ≤ 16) {s s' : State} (h : statusOut s = statusOut s') :
    statusOut (updateLive n s) = statusOut (updateLive n s') := by
  obtain ⟨htv, hlive, hbuflen⟩ := statusOut_eq_iff.mp h
  have hpending : (updateLive n s).buflen = (updateLive n s').buflen :=
    BitVec.eq_of_toNat_eq (by rw [updateLive_buflen_toNat hn, updateLive_buflen_toNat hn, hbuflen])
  exact statusOut_eq_iff.mpr ⟨htv, hlive, hpending⟩

theorem statusOut_exec_congr {i : Instr} (hi : i ≠ .final) {s s' t t' : State} (hl : s.live = true)
    (hl' : s'.live = true) (h : statusOut s = statusOut s') (ht : exec i s = .next t)
    (ht' : exec i s' = .next t') : statusOut t = statusOut t' := by
  rcases exec_cases ht with ⟨rfl, rfl⟩ | ⟨rfl, rfl⟩ | ⟨hupdate, -, rfl⟩ | ⟨-, hspent, -⟩ | ⟨hfinal, -⟩
  · rwa [exec_nop_next ht']
  · rw [exec_init, Host.Outcome.next.injEq] at ht'
    rw [← ht', statusOut_startMessage_congr]
  · rw [exec_update_of_live hupdate hl', Host.Outcome.next.injEq] at ht'
    rw [← ht', statusOut_updateLive_congr (beatLength_le i) h]
  · rw [hl] at hspent
    cases hspent
  · exact absurd hfinal hi

/-- Settles O25: BUFLEN after an UPDATE is (BUFLEN + len) mod 16 whatever the bytes are, the other commands but
FINAL keep or set what STATUS shows, and FINAL sets both flags. -/
theorem statusDependsOnLengthOnly : Obligations.StatusDependsOnLengthOnly := by
  intro i s s' hl hl' h
  obtain ⟨t, ht⟩ := exec_completes i s
  obtain ⟨t', ht'⟩ := exec_completes i s'
  have hstatus (hi : i ≠ .final) := statusOut_exec_congr hi hl hl' h ht ht'
  have hflags : t.live = t'.live ∧ t.tv = t'.tv := by
    by_cases hi : i = .final
    · subst hi
      rw [exec_final, Host.Outcome.next.injEq] at ht ht'
      subst ht ht'
      exact ⟨rfl, rfl⟩
    · obtain ⟨htv, hlive, -⟩ := statusOut_eq_iff.mp (hstatus hi)
      exact ⟨hlive, htv⟩
  exact ⟨t, t', ht, ht', hstatus, hflags⟩

end Sys2Proof.Machine
end

section
/-! PROOFS. ACC matters through its residue modulo P alone (R26, R84, R89). -/

namespace Sys2Proof.Machine

theorem freeze_eq_mod {y : Nat} (hy : y < 2 ^ 130) : freeze y = y % prime := by
  have hdouble : y < prime + prime := lt_of_lt_of_le hy (by decide)
  rw [freeze_eq_ite y hy]
  split
  case isTrue hge => rw [Nat.mod_eq_sub_mod hge, Nat.mod_eq_of_lt (by omega)]
  case isFalse hlt => rw [Nat.mod_eq_of_lt (by omega)]

theorem absorb_congr {a b : Nat} (h : a ≡ b [MOD prime]) (m r : Nat) : absorb a m r = absorb b m r :=
  (h.add_right m).mul_right r

theorem tagOf_congr {a b : Nat} (h : a ≡ b [MOD prime]) (ha : a < 2 ^ 130) (hb : b < 2 ^ 130) (s : Nat) :
    tagOf a s = tagOf b s := by
  have hred : finalRed a = finalRed b := by rw [finalRed, finalRed, freeze_eq_mod ha, freeze_eq_mod hb, h]
  rw [tagOf, hred, tagOf]

/-- Settles O39: ABSORB is a congruence, and FINALRED of a 130-bit value is its residue. -/
theorem onlyTheResidueMatters : Obligations.OnlyTheResidueMatters :=
  fun _ _ h => ⟨absorb_congr h, tagOf_congr h⟩

end Sys2Proof.Machine
end

section
/-! PROOFS. A host that keeps its contract (R22, R130, R131, R136): each of its pin values is taken by a step that
answers a next state, and LIVE follows the phase. -/

namespace Sys2Proof.Machine

theorem after_reset (ph : Phase) {p : Port} (hr : p.rst = true) : ph.after p = some .closed := by
  simp [Phase.after, hr]

theorem after_idle (ph : Phase) {p : Port} (hr : p.rst = false) (hv : p.cmdValid = false) :
    ph.after p = some ph := by
  simp [Phase.after, hr, hv]

theorem after_reserved (ph : Phase) {p : Port} {r : Reserved} (hr : p.rst = false) (hv : p.cmdValid = true)
    (hd : decode p.cw = .error r) : ph.after p = none := by
  simp [Phase.after, hr, hv, hd]

/-- A command that the contract allows moves the phase as it moves LIVE. -/
theorem after_command_live {ph ph' : Phase} {p : Port} {i : Instr} (hr : p.rst = false)
    (hv : p.cmdValid = true) (hd : decode p.cw = .ok i) (h : ph.after p = some ph') :
    ph'.live = liveAfter i ph.live := by
  simp only [Phase.after, hr, hv, hd, Bool.not_true, Bool.false_eq_true, if_false] at h
  cases ph with
  | closed =>
    cases i with
    | nop => cases h; rfl
    | init => cases h; rfl
    | update len => cases h
    | update16 => cases h
    | final => cases h
  | opened key =>
    cases i with
    | nop => cases h; rfl
    | init => cases h
    | update len => obtain ⟨-, ⟨⟩⟩ := Option.ite_none_right_eq_some.mp h; rfl
    | update16 => obtain ⟨-, ⟨⟩⟩ := Option.ite_none_right_eq_some.mp h; rfl
    | final => obtain ⟨-, ⟨⟩⟩ := Option.ite_none_right_eq_some.mp h; rfl

/-- What the block does with pin values that keep the contract. -/
theorem accept_of_after {s : State} {ph ph' : Phase} (hlive : s.live = ph.live)
    (h : ph.after s.port = some ph') :
    ∃ t, accept s = .next t ∧ t.live = ph'.live ∧ t.script = s.script := by
  rcases hr : s.port.rst with _ | _
  · rcases hv : s.port.cmdValid with _ | _
    · rw [after_idle ph hr hv, Option.some.injEq] at h
      exact ⟨s, accept_idle hr hv, by rw [hlive, h], rfl⟩
    · rcases hd : decode s.port.cw with r | i
      · rw [after_reserved ph hr hv hd] at h
        cases h
      · obtain ⟨t, ht⟩ := exec_completes i s
        obtain ⟨-, hscript⟩ := exec_sameInputs ht
        exact ⟨t, by rw [accept_command hr hv hd, ht],
          by rw [exec_live ht, after_command_live hr hv hd h, hlive], hscript⟩
  · rw [after_reset ph hr, Option.some.injEq] at h
    exact ⟨resetRegisters s, accept_reset hr, by rw [← h]; rfl, resetRegisters_script s⟩

theorem step_of_after {s : State} {p : Port} {rest : List Port} {ph ph' : Phase} (hs : s.script = p :: rest)
    (hlive : s.live = ph.live) (h : ph.after p = some ph') :
    ∃ t, step s = .next t ∧ t.live = ph'.live ∧ t.script = rest := by
  rw [step, nextPins_cons hs]
  exact accept_of_after (s := present p rest s) hlive h

theorem runScript_of_afterAll {ps : List Port} {s : State} {ph ph' : Phase} (hs : s.script = ps)
    (hlive : s.live = ph.live) (h : ph.afterAll ps = some ph') :
    ∃ t, runScript ps.length s = .next t ∧ t.live = ph'.live ∧ t.script = [] := by
  induction ps generalizing s ph with
  | nil =>
    cases h
    exact ⟨s, runScript_zero s, hlive, hs⟩
  | cons p ps ih =>
    rcases hp : ph.after p with _ | mid
    · simp [Phase.afterAll, hp] at h
    · simp only [Phase.afterAll, hp] at h
      obtain ⟨u, hu, hulive, huscript⟩ := step_of_after hs hlive hp
      rw [List.length_cons, runScript_succ hu]
      exact ih huscript hulive h

/-- Settles O48, by induction along the script. -/
theorem contractKeepingRunsComplete : Obligations.ContractKeepingRunsComplete :=
  fun _ _ _ hlive h => runScript_of_afterAll rfl hlive h

end Sys2Proof.Machine
end

section
/-! PROOFS. A port or register of bytes as one integer (R36). -/

namespace Sys2Proof.Machine

open Certificates

/-- LE of bytes given by their positions is their weighted sum (R9). -/
theorem le_map_range (f : Nat → Byte) (n : Nat) : le ((List.range n).map f) = sumOfBytes f n := by
  rw [le_eq_sum, List.length_map, List.length_range, sumOfBytes]
  refine Finset.sum_congr rfl fun j hj => ?_
  have hbyte : ((List.range n).map f).getD j 0#8 = f j := by simp [Finset.mem_range.mp hj]
  rw [hbyte]

theorem le_beatBytes_all (din : Lanes16) : le (beatBytes 16 din) = din.toNat :=
  (le_beatBytes 16 din).trans (Nat.mod_eq_of_lt din.isLt)

theorem le_keyBytes_all (key : Lanes32) : le (keyBytes 0 32 key) = key.toNat := by
  rw [le_keyBytes, Nat.mul_zero, pow_zero, Nat.div_one]
  exact Nat.mod_eq_of_lt key.isLt

theorem beatBytes_eq_map (n : Nat) (din : Lanes16) : beatBytes n din = (List.range n).map (dinByte din) := rfl

theorem keyBytes_zero_eq_map (n : Nat) (key : Lanes32) :
    keyBytes 0 n key = (List.range n).map (keyByte key) := by
  simp [keyBytes]

theorem tagBytes_eq_map (tag : Lanes16) : tagBytes tag = (List.range 16).map (tagByte tag) := rfl

/-- Settles O29: LE of the bytes of a port or register is its integer, and LE is the weighted sum of the bytes. -/
theorem portIntegersAreLittleEndian : Obligations.PortIntegersAreLittleEndian := by
  refine ⟨fun din => ⟨?din, le_beatBytes_all din⟩, fun key => ⟨?key, le_keyBytes_all key⟩,
    fun tag => ⟨?tag, le_tagBytes tag⟩, fun _ _ _ _ => ⟨rfl, rfl, rfl⟩⟩
  case din => rw [← le_map_range, ← beatBytes_eq_map, le_beatBytes_all]
  case key => rw [← le_map_range, ← keyBytes_zero_eq_map, le_keyBytes_all]
  case tag => rw [← le_map_range, ← tagBytes_eq_map, le_tagBytes]

end Sys2Proof.Machine
end

section
/-! PROOFS. An UPDATE of no bytes (R41). -/

namespace Sys2Proof.Machine

theorem gatheredBytes_zero (s : State) : gatheredBytes 0 s = pendingBytes s := by
  rw [gatheredBytes, beatBytes_zero, List.append_nil]

theorem leftover_of_short {t : List Byte} (h : t.length < 16) : leftover t = t := by
  rw [leftover, if_neg (Nat.not_le.mpr h)]

/-- BUF holds nothing but its pending bytes when the bytes not in use are 0 (R18). -/
theorem fillBuf_pendingBytes {s : State} (h : s.Canonical) : fillBuf (pendingBytes s) = s.buf := by
  obtain ⟨-, -, hzero⟩ := h
  refine Vector.ext fun j hj => ?_
  rcases Nat.lt_or_ge j s.buflen.toNat with hused | hunused
  · simp [pendingBytes, hused, hj]
  · have hlen : (pendingBytes s).length ≤ j := by rwa [pendingBytes_length]
    rw [fillBuf_getElem_of_length_le hj hlen]
    exact (hzero ⟨j, hj⟩ hunused).symm

theorem updateLive_zero {s : State} (h : s.Canonical) :
    updateLive 0 s = { s with rc := multiplier s.port.key } := by
  have hlen : (pendingBytes s).length < 16 := by
    rw [pendingBytes_length]
    exact s.buflen.isLt
  rw [updateLive, gatheredBytes_zero, absorbFirst_short hlen, leftover_of_short hlen, fillBuf_pendingBytes h,
    pendingBytes_length, BitVec.ofNat_toNat, BitVec.setWidth_eq]

theorem exec_update_zero {s : State} (h : s.Sound) (hl : s.live = true) :
    exec (.update 0#4) s = .next { s with rc := multiplier s.port.key } := by
  obtain ⟨hcanonical, -⟩ := h
  rw [exec_update_of_live rfl hl]
  exact congrArg _ (updateLive_zero (hcanonical hl))

/-- Settles O19: T is what BUF already holds, which fills no block; the repetition gives the same since no UPDATE
reads the old multiplier. -/
theorem emptyBeatChangesOnlyMultiplier : Obligations.EmptyBeatChangesOnlyMultiplier := by
  intro s hs hl
  have honce := exec_update_zero hs hl
  have hrepeat := exec_congr (s' := { s with rc := multiplier s.port.key }) hl hl (startMessage_withRc s _)
    (fun n => updateLive_withRc n s _) (i := .update 0#4) (.inl rfl)
  exact ⟨honce, hrepeat.trans honce⟩

end Sys2Proof.Machine
end

section
/-! PROOFS. The lanes of DIN and KEY that a command does not read (R32, R39, R40). -/

namespace Sys2Proof.Machine

/-! UPDATE reads DIN[0..n-1] and KEY[0..15]. -/

theorem beatBytes_congr {n : Nat} {din din' : Lanes16} (h : ∀ j, j < n → dinByte din' j = dinByte din j) :
    beatBytes n din' = beatBytes n din :=
  List.map_congr_left fun j hj => h j (List.mem_range.mp hj)

theorem keyBytes_zero_congr {n : Nat} {key key' : Lanes32} (h : ∀ j, j < n → keyByte key' j = keyByte key j) :
    keyBytes 0 n key' = keyBytes 0 n key := by
  rw [keyBytes_zero_eq_map, keyBytes_zero_eq_map]
  exact List.map_congr_left fun j hj => h j (List.mem_range.mp hj)

theorem multiplier_congr {key key' : Lanes32} (h : keyBytes 0 16 key' = keyBytes 0 16 key) :
    multiplier key' = multiplier key := by
  rw [multiplier, keyR, h, ← keyR, ← multiplier]

theorem updatePins_congr {n : Nat} {p : Port} {din : Lanes16} {key : Lanes32}
    (hdin : beatBytes n din = beatBytes n p.din) (hkey : keyBytes 0 16 key = keyBytes 0 16 p.key) :
    updatePins n { p with din := din, key := key } = updatePins n p := by
  simp only [updatePins, hdin, hkey]

section
variable {n : Nat} {s : State} {p : Port} (hkey : keyBytes 0 16 p.key = keyBytes 0 16 s.port.key)
include hkey

theorem updateLive_withPort (hdin : beatBytes n p.din = beatBytes n s.port.din) :
    updateLive n { s with port := p } = { updateLive n s with port := p } := by
  have hgathered : gatheredBytes n { s with port := p } = gatheredBytes n s :=
    congrArg (pendingBytes s ++ ·) hdin
  simp only [updateLive, hgathered, multiplier_congr hkey]

/-- The values drawn are the same too, since they depend on no lane that is not read (log 2). -/
theorem updateSpent_withPort (hpins : updatePins n p = updatePins n s.port) :
    updateSpent n { s with port := p } = { updateSpent n s with port := p } := by
  have hsite : drawSite (updatePins n p) { s with port := p } = drawSite (updatePins n s.port) s :=
    congrArg (drawSite · s) hpins
  simp only [updateSpent, hsite, multiplier_congr hkey]

theorem updateBeat_withPort (hdin : beatBytes n p.din = beatBytes n s.port.din)
    (hpins : updatePins n p = updatePins n s.port) :
    updateBeat n { s with port := p } = { updateBeat n s with port := p } := by
  rcases s.live.eq_false_or_eq_true with hl | hl
  · rw [updateBeat_of_live hl, updateBeat_of_live (s := { s with port := p }) hl,
      updateLive_withPort hkey hdin]
  · rw [updateBeat_of_spent hl, updateBeat_of_spent (s := { s with port := p }) hl,
      updateSpent_withPort hkey hpins]

end

/-- Settles O21: both effects of an UPDATE see the pins through the bytes of the beat and the key half alone. -/
theorem updateIgnoresUnreadLanes : Obligations.UpdateIgnoresUnreadLanes := by
  intro i s din key hi hdin hkey
  have hbeat := beatBytes_congr hdin
  have hhalf := keyBytes_zero_congr hkey
  refine ⟨updateBeat i.beatLength s, exec_of_isUpdate hi s, ?_⟩
  rw [exec_of_isUpdate hi, updateBeat_withPort hhalf hbeat (updatePins_congr hbeat hhalf)]

/-! INIT reads no pins, and FINAL reads KEY alone. -/

theorem startMessage_withPort (s : State) (p : Port) :
    startMessage { s with port := p } = { startMessage s with port := p } := rfl

theorem closingTag_withDin (s : State) (din : Lanes16) :
    closingTag { s with port := { s.port with din := din } } = closingTag s := rfl

/-- The draws of FINAL are the same too: the pins they may depend on hold no DIN (log 2). -/
theorem drawSite_finalPins_withDin (s : State) (din : Lanes16) :
    drawSite (finalPins { s.port with din := din }) { s with port := { s.port with din := din } } =
      drawSite (finalPins s.port) s := rfl

theorem closeMessage_withDin (s : State) (din : Lanes16) :
    closeMessage { s with port := { s.port with din := din } } =
      { closeMessage s with port := { s.port with din := din } } := by
  simp only [closeMessage, closingTag_withDin, drawSite_finalPins_withDin]

/-- Settles O22: NOP writes nothing, INIT writes constants, and FINAL's tag and draws are made without DIN. -/
theorem otherCommandsIgnoreUnreadPorts : Obligations.OtherCommandsIgnoreUnreadPorts := by
  refine ⟨?nopOrInit, fun s din => ⟨closeMessage s, exec_final s, ?final⟩⟩
  case nopOrInit =>
    rintro i s din key (rfl | rfl)
    · exact ⟨s, exec_nop s, exec_nop _⟩
    · exact ⟨startMessage s, exec_init s, by rw [exec_init, startMessage_withPort]⟩
  case final => rw [exec_final, closeMessage_withDin]

end Sys2Proof.Machine
end

section
/-! PROOFS. The decoder and the encoder (R58): the numbers of the encodings, that each of the two functions undoes
the other, and the defined words as the words that are encodings (R55). -/

namespace Sys2Proof

/-! The encodings as numbers. -/

theorem encode_update_toNat (len : BitVec 4) : (encode (.update len)).toNat = 0x40 + len.toNat := by
  rw [encode, BitVec.toNat_append, ← Nat.shiftLeft_add_eq_or_of_lt len.isLt]
  rfl

theorem encode_toNat_of_isUpdate {i : Instr} (h : i.isUpdate = true) :
    (encode i).toNat = 0x40 + i.beatLength := by
  cases i with
  | nop => cases h
  | init => cases h
  | update len => exact encode_update_toNat len
  | update16 => rfl
  | final => cases h

/-- A word whose upper three bits are those of the row `100llll` is the UPDATE of its lower four. -/
theorem encode_update_of_high {w : CommandWord} (h : w.extractLsb' 4 3 = 0b100#3) :
    encode (.update (w.extractLsb' 0 4)) = w := by
  have hjoin : w.extractLsb' 4 3 ++ w.extractLsb' 0 4 = w.extractLsb' 0 (3 + 4) :=
    BitVec.extractLsb'_append_extractLsb'_eq_extractLsb' rfl
  rw [encode, ← h, hjoin, BitVec.extractLsb'_eq_self]

theorem high_of_update_range {w : CommandWord} (hlo : 0x40#7 ≤ w) (hhi : w ≤ 0x4f#7) :
    w.extractLsb' 4 3 = 0b100#3 := by
  apply BitVec.eq_of_toNat_eq
  rw [BitVec.extractLsb'_toNat, Nat.shiftRight_eq_div_pow]
  rw [BitVec.le_def] at hlo hhi
  simp only [BitVec.toNat_ofNat] at hlo hhi ⊢
  omega

/-! Each undoes the other. -/

theorem decode_encode (i : Instr) : decode (encode i) = .ok i := by
  cases i with
  | nop => exact decode_nop_word
  | init => exact decode_init_word
  | update len =>
    revert len
    decide
  | update16 => exact decode_update16_word
  | final => exact decode_final_word

theorem encode_of_decode {w : CommandWord} {i : Instr} (h : decode w = .ok i) : encode i = w := by
  unfold decode at h
  split at h
  case isTrue hw => cases h; exact hw.symm
  split at h
  case isTrue hw => cases h; exact hw.symm
  split at h
  case isTrue hw =>
    cases h
    obtain ⟨hlo, hhi⟩ := hw
    exact encode_update_of_high (high_of_update_range hlo hhi)
  split at h
  case isTrue hw => cases h; exact hw.symm
  split at h
  case isTrue hw => cases h; exact hw.symm
  cases h

theorem decode_eq_ok_iff {w : CommandWord} {i : Instr} : decode w = .ok i ↔ encode i = w :=
  ⟨encode_of_decode, fun h => h ▸ decode_encode i⟩

/-! The words that are encodings, by their numbers. -/

open Machine (updateOf)

theorem updateOf_isUpdate (n : Nat) : (updateOf n).isUpdate = true := by
  unfold updateOf
  split <;> rfl

theorem updateOf_beatLength {n : Nat} (h : n ≤ 16) : (updateOf n).beatLength = n := by
  unfold updateOf
  split
  case isTrue hlt => exact Nat.mod_eq_of_lt hlt
  case isFalse hge => exact Nat.le_antisymm (Nat.not_lt.mp hge) h

theorem encode_updateOf {w : CommandWord} (hlo : 0x40 ≤ w.toNat) (hhi : w.toNat ≤ 0x50) :
    encode (updateOf (w.toNat - 0x40)) = w := by
  apply BitVec.eq_of_toNat_eq
  rw [encode_toNat_of_isUpdate (updateOf_isUpdate _), updateOf_beatLength (by omega)]
  omega

theorem exists_encode_iff (w : CommandWord) :
    (∃ i, encode i = w) ↔
      w.toNat = 0x00 ∨ w.toNat = 0x20 ∨ (0x40 ≤ w.toNat ∧ w.toNat ≤ 0x50) ∨ w.toNat = 0x60 := by
  constructor
  · rintro ⟨i, rfl⟩
    cases i with
    | nop => exact .inl rfl
    | init => exact .inr (.inl rfl)
    | update len =>
      have hlen := len.isLt
      rw [encode_update_toNat]
      omega
    | update16 => exact .inr (.inr (.inl (by decide)))
    | final => exact .inr (.inr (.inr rfl))
  · rintro (h | h | ⟨hlo, hhi⟩ | h)
    · exact ⟨.nop, (BitVec.eq_of_toNat_eq h).symm⟩
    · exact ⟨.init, (BitVec.eq_of_toNat_eq h).symm⟩
    · exact ⟨updateOf (w.toNat - 0x40), encode_updateOf hlo hhi⟩
    · exact ⟨.final, (BitVec.eq_of_toNat_eq h).symm⟩

theorem decode_eq_error_of_not_encoding {w : CommandWord} (h : ¬ ∃ i, encode i = w) :
    ∃ r, decode w = .error r := by
  rcases hd : decode w with r | i
  · exact ⟨r, rfl⟩
  · exact absurd ⟨i, encode_of_decode hd⟩ h

/-- The decoder's chain of cases, by the number of the word (R58). -/
theorem decode_chain (w : CommandWord) :
    if w.toNat = 0x00 then decode w = .ok .nop
    else if w.toNat = 0x20 then decode w = .ok .init
    else if 0x40 ≤ w.toNat ∧ w.toNat ≤ 0x50 then
      ∃ i : Instr, decode w = .ok i ∧ i.isUpdate = true ∧ i.beatLength = w.toNat - 0x40
    else if w.toNat = 0x60 then decode w = .ok .final
    else ∃ r, decode w = .error r := by
  split
  case isTrue hw => exact decode_eq_ok_iff.mpr (BitVec.eq_of_toNat_eq hw).symm
  case isFalse hnop =>
  split
  case isTrue hw => exact decode_eq_ok_iff.mpr (BitVec.eq_of_toNat_eq hw).symm
  case isFalse hinit =>
  split
  case isTrue hw =>
    obtain ⟨hlo, hhi⟩ := hw
    exact ⟨updateOf (w.toNat - 0x40), decode_eq_ok_iff.mpr (encode_updateOf hlo hhi), updateOf_isUpdate _,
      updateOf_beatLength (by omega)⟩
  case isFalse hupdate =>
  split
  case isTrue hw => exact decode_eq_ok_iff.mpr (BitVec.eq_of_toNat_eq hw).symm
  case isFalse hfinal =>
    refine decode_eq_error_of_not_encoding ?_
    rw [exists_encode_iff]
    simp only [hnop, hinit, hupdate, hfinal, or_self, not_false_iff]

/-- Settles O2: a word decodes to a command exactly when it is the command's encoding, and the encodings are known
by their numbers. -/
theorem decodeAndEncodeAgree : Obligations.DecodeAndEncodeAgree :=
  ⟨⟨rfl, rfl, rfl, fun _ => encode_toNat_of_isUpdate⟩, decode_chain, decode_encode, fun _ _ => encode_of_decode⟩

/-! The defined words and the rows of the opcode table (R55). -/

theorem encode_inOwnRow (i : Instr) : Laws.EncodesInOwnRow.Statement i := by
  cases i with
  | nop => exact Laws.EncodesInOwnRow.nop
  | init => exact Laws.EncodesInOwnRow.init
  | update len => exact Laws.EncodesInOwnRow.update len
  | update16 => exact Laws.EncodesInOwnRow.update16
  | final => exact Laws.EncodesInOwnRow.final

theorem inOwnRow_of_decode {w : CommandWord} {i : Instr} (h : decode w = .ok i) :
    w.defined = true ∧ opcodeTable.filter (fun r => r.selects w) = [tableRow i] := by
  obtain rfl := encode_of_decode h
  exact encode_inOwnRow i

theorem CommandWord.op_toNat (w : CommandWord) : w.op.toNat = w.toNat / 32 := by
  have hw := w.isLt
  rw [CommandWord.op, BitVec.extractLsb'_toNat, Nat.shiftRight_eq_div_pow]
  omega

theorem CommandWord.len_toNat (w : CommandWord) : w.len.toNat = w.toNat % 32 := by
  rw [CommandWord.len, BitVec.extractLsb'_toNat, Nat.shiftRight_zero]

theorem exists_encode_of_defined {w : CommandWord} (h : w.defined = true) : ∃ i, encode i = w := by
  have hw := w.isLt
  rw [exists_encode_iff]
  simp only [CommandWord.defined, BitVec.toNat_eq, w.op_toNat, w.len_toNat, BitVec.toNat_ofNat] at h
  split at h
  case isTrue hop =>
    have hlen := of_decide_eq_true h
    omega
  case isFalse hop =>
    have hlen := of_decide_eq_true h
    omega

/-- The reserved words are those that the decoder rejects (R56). -/
theorem defined_eq_false_iff (w : CommandWord) : w.defined = false ↔ ∃ r, decode w = .error r := by
  constructor
  · intro h
    refine decode_eq_error_of_not_encoding ?_
    rintro ⟨i, rfl⟩
    obtain ⟨hdefined, -⟩ := encode_inOwnRow i
    rw [hdefined] at h
    cases h
  · rintro ⟨r, hr⟩
    by_contra h
    obtain ⟨i, rfl⟩ := exists_encode_of_defined (Bool.eq_true_of_not_eq_false h)
    rw [decode_encode] at hr
    cases hr

/-- A row with the full mask selects its pattern alone. -/
theorem eq_of_selects_full {w p : CommandWord} (h : TableRow.selects ⟨p, 0x7f#7⟩ w = true) : p = w :=
  (of_decide_eq_true h).symm.trans BitVec.and_allOnes

theorem high_of_selects_update {w : CommandWord} {len : BitVec 4}
    (h : (tableRow (.update len)).selects w = true) : w.extractLsb' 4 3 = 0b100#3 :=
  calc w.extractLsb' 4 3 = w.extractLsb' 4 3 &&& BitVec.allOnes 3 := BitVec.and_allOnes.symm
    _ = (w &&& 0x70#7).extractLsb' 4 3 := (BitVec.extractLsb'_and (y := 0x70#7)).symm
    _ = (0x40#7).extractLsb' 4 3 := congrArg _ (of_decide_eq_true h)
    _ = 0b100#3 := rfl

/-- A row selects encodings only. -/
theorem exists_encode_of_selects {w : CommandWord} {i : Instr} (h : (tableRow i).selects w = true) :
    ∃ j, encode j = w := by
  cases i with
  | nop => exact ⟨.nop, eq_of_selects_full h⟩
  | init => exact ⟨.init, eq_of_selects_full h⟩
  | update len => exact ⟨.update (w.extractLsb' 0 4), encode_update_of_high (high_of_selects_update h)⟩
  | update16 => exact ⟨.update16, eq_of_selects_full h⟩
  | final => exact ⟨.final, eq_of_selects_full h⟩

theorem exists_tableRow_of_mem {r : TableRow} (h : r ∈ opcodeTable) : ∃ i, r = tableRow i := by
  simp only [opcodeTable, List.mem_cons, List.not_mem_nil, or_false] at h
  rcases h with h | h | h | h | h <;> exact ⟨_, h⟩

theorem no_row_of_decode_error {w : CommandWord} {e : Reserved} (h : decode w = .error e) :
    opcodeTable.filter (fun r => r.selects w) = [] := by
  rw [List.filter_eq_nil_iff]
  intro r hr hselects
  obtain ⟨i, rfl⟩ := exists_tableRow_of_mem hr
  obtain ⟨j, rfl⟩ := exists_encode_of_selects hselects
  rw [decode_encode] at h
  cases h

/-- Settles O3: an encoding selects its own row, every row selects encodings only, and the 20 defined words are
counted. -/
theorem opcodeTableClassifiesEveryWord : Obligations.OpcodeTableClassifiesEveryWord := by
  refine ⟨fun w => ?atMostOne, fun w i h => (inOwnRow_of_decode h).symm,
    fun w e h => ⟨no_row_of_decode_error h, (defined_eq_false_iff w).mpr ⟨e, h⟩⟩, ?count⟩
  case atMostOne =>
    rcases hd : decode w with e | i
    · rw [no_row_of_decode_error hd]
      exact Nat.zero_le 1
    · obtain ⟨-, hrow⟩ := inOwnRow_of_decode hd
      rw [hrow]
      exact Nat.le_refl 1
  case count => decide

end Sys2Proof
end

section
/-! PROOFS. The step by what the host's next pins offer: a command, a reserved word, or nothing (R48, R56, R97). -/

namespace Sys2Proof.Machine

open Certificates

theorem step_cons {s : State} {p : Port} {rest : List Port} (hs : s.script = p :: rest) :
    step s = accept (present p rest s) := by
  rw [step, nextPins_cons hs]

section
variable {s : State} {p : Port} {rest : List Port} (hs : s.script = p :: rest) (hr : p.rst = false)
include hs hr

theorem step_command {i : Instr} (hv : p.cmdValid = true) (hd : decode p.cw = .ok i) :
    step s = exec i (present p rest s) := by
  rw [step_cons hs, accept_command (s := present p rest s) hr hv hd]

theorem step_reserved {r : Reserved} (hv : p.cmdValid = true) (hd : decode p.cw = .error r) :
    step s = .refused (.reservedWord r) := by
  rw [step_cons hs, accept_reserved (s := present p rest s) hr hv hd]

theorem step_idle (hv : p.cmdValid = false) : step s = .next (present p rest s) := by
  rw [step_cons hs, accept_idle (s := present p rest s) hr hv]

end

theorem step_nil {s : State} (hs : s.script = []) : step s = .next (present idlePort [] s) := by
  rw [step, nextPins_nil hs, accept_idle (s := present idlePort [] s) rfl rfl]

/-- Settles O4: the step is the command on the state with its pins presented, and no command writes the inputs. -/
theorem stepRunsDecodedInstruction : Obligations.StepRunsDecodedInstruction := by
  intro s p rest i hs hr hv hd
  have hstep := step_command hs hr hv hd
  exact ⟨hstep, fun t ht => exec_sameInputs (hstep.symm.trans ht)⟩

/-! Nothing is offered (R48). -/

theorem sameRegisters_present (p : Port) (rest : List Port) (s : State) :
    sameRegisters s (present p rest s) :=
  ⟨rfl, rfl, rfl, rfl, rfl, rfl, rfl⟩

/-- Settles O7: in both cases the step presents pins and does nothing else. -/
theorem nothingHappensWithoutCommand : Obligations.NothingHappensWithoutCommand := by
  rintro s (hs | ⟨p, rest, hs, hr, hv⟩)
  · exact ⟨_, step_nil hs, sameRegisters_present _ _ s, rfl, by rw [hs]; rfl⟩
  · exact ⟨_, step_idle hs hr hv, sameRegisters_present _ _ s, rfl, by rw [hs]; rfl⟩

/-! A word of the opcode table placed as the next command (log 4). -/

theorem decode_of_decodeTableWord {nbits w : Nat} {i : Instr} (h : decodeTableWord nbits w = some i) :
    decode (BitVec.ofNat 7 (w % 2 ^ nbits)) = .ok i := by
  unfold decodeTableWord at h
  split at h
  case isTrue =>
    split at h
    case h_1 hd =>
      cases h
      exact hd
    case h_2 => cases h
  case isFalse => cases h

/-- Settles O5: the placed word decodes to the command, so it is the command's encoding, and it stands first in the
script. -/
theorem placedTableWordRunsNext : Obligations.PlacedTableWordRunsNext := by
  intro s nbits w i h
  have hd := decode_of_decodeTableWord h
  rw [step_command (withFetchWord_script s nbits w) rfl rfl hd, encode_of_decode hd]
  rfl

/-! A reserved word is refused, and nothing else is (R56). -/

theorem accept_refused {s : State} {r : Refusal} (h : accept s = .refused r) :
    s.port.rst = false ∧ s.port.cmdValid = true ∧ s.port.cw.defined = false := by
  rcases hr : s.port.rst with _ | _
  · rcases hv : s.port.cmdValid with _ | _
    · rw [accept_idle hr hv] at h
      cases h
    · rcases hd : decode s.port.cw with e | i
      · exact ⟨rfl, rfl, (defined_eq_false_iff _).mpr ⟨e, hd⟩⟩
      · obtain ⟨t, ht⟩ := exec_completes i s
        rw [accept_command hr hv hd, ht] at h
        cases h
  · rw [accept_reset hr] at h
    cases h

/-- Settles O6: the words that are not defined are those the decoder rejects, and every other event answers a next
state. -/
theorem reservedWordsAreRefused : Obligations.ReservedWordsAreRefused := by
  constructor
  · intro s p rest hs hr hv hundefined
    obtain ⟨r, hd⟩ := (defined_eq_false_iff p.cw).mp hundefined
    exact ⟨r, step_reserved hs hr hv hd⟩
  · intro s r h
    rcases hs : s.script with _ | ⟨p, rest⟩
    · rw [step_nil hs] at h
      cases h
    · rw [step_cons hs] at h
      exact ⟨p, rest, rfl, accept_refused h⟩

end Sys2Proof.Machine
end

section
/-! PROOFS. The two halves of the key (R53, R64, R65). -/

namespace Sys2Proof.Machine

open Certificates

theorem toLanes16_toNat {bytes : List Byte} (h : bytes.length = 16) : (toLanes16 bytes).toNat = le bytes := by
  have hlt := le_lt bytes
  rw [h] at hlt
  rw [toLanes16, BitVec.toNat_ofNat, Nat.mod_eq_of_lt hlt]

theorem keyR_toNat_eq_sum (key : Lanes32) : (keyR key).toNat = sumOfBytes (keyByte key) 16 := by
  rw [keyR, ← toLanes16, toLanes16_toNat (keyBytes_length 0 16 key), keyBytes_zero_eq_map, le_map_range]

theorem keyS_toNat_eq_sum (key : Lanes32) :
    (keyS key).toNat = sumOfBytes (fun j => keyByte key (16 + j)) 16 := by
  rw [keyS, ← toLanes16, toLanes16_toNat (keyBytes_length 16 16 key), keyBytes, le_map_range]

theorem keyR_eq_extract (key : Lanes32) : keyR key = key.extractLsb' 0 128 :=
  BitVec.eq_of_toNat_eq (by rw [keyR_toNat, BitVec.extractLsb'_toNat, Nat.shiftRight_zero])

theorem keyS_eq_extract (key : Lanes32) : keyS key = key.extractLsb' 128 128 := by
  apply BitVec.eq_of_toNat_eq
  have hhalf : key.toNat / 2 ^ 128 < 2 ^ 128 := Nat.div_lt_of_lt_mul key.isLt
  rw [keyS_toNat, BitVec.extractLsb'_toNat, Nat.shiftRight_eq_div_pow, Nat.mod_eq_of_lt hhalf]

/-- Settles O30: a half is LE of its own 16 bytes, which is their weighted sum and the slice of the port's integer. -/
theorem keyHalvesAreTheirPortSlices : Obligations.KeyHalvesAreTheirPortSlices :=
  fun key => ⟨keyR_toNat_eq_sum key, keyR_eq_extract key, keyS_toNat_eq_sum key, keyS_eq_extract key, rfl⟩

end Sys2Proof.Machine
end

section
/-! PROOFS. CLAMP (R66 to R68): which bits, bytes and words of its operand it clears, its range and its fixpoints. -/

namespace Sys2Proof.Machine

/-! What CLAMP clears (R67). -/

/-- The bit positions that CLAMP clears. -/
def clearedBits : List Nat :=
  [28, 29, 30, 31, 32, 33, 60, 61, 62, 63, 64, 65, 92, 93, 94, 95, 96, 97, 124, 125, 126, 127]

theorem clampMask_getLsbD : ∀ i < 128, clampMask.getLsbD i = decide (i ∉ clearedBits) := by decide

theorem clamp_getLsbD (x : BitVec 128) {i : Nat} (hi : i < 128) :
    (clamp x).getLsbD i = if i ∈ clearedBits then false else x.getLsbD i := by
  rw [clamp, BitVec.getLsbD_and, clampMask_getLsbD i hi]
  split
  case isTrue hcleared => simp [hcleared]
  case isFalse hpassed => simp [hpassed]

/-- CLAMP acts on every slice of its operand by the same slice of the mask. -/
theorem clamp_extract (x : BitVec 128) (lo n : Nat) :
    (clamp x).extractLsb' lo n = x.extractLsb' lo n &&& clampMask.extractLsb' lo n :=
  BitVec.extractLsb'_and

/-- Byte j of KEYR is KEY[j] (R53). -/
theorem keyR_byte (key : Lanes32) {j : Nat} (hj : j < 16) :
    (keyR key).extractLsb' (8 * j) 8 = keyByte key j := by
  rw [keyR_eq_extract, BitVec.extractLsb'_extractLsb'_of_le (by omega), keyByte]

theorem clampMask_byte : ∀ j < 16, clampMask.extractLsb' (8 * j) 8 =
    if j ∈ [3, 7, 11, 15] then 0x0f#8 else if j ∈ [4, 8, 12] then 0xfc#8 else BitVec.allOnes 8 := by
  decide

theorem multiplier_byte (key : Lanes32) {j : Nat} (hj : j < 16) :
    (multiplier key).extractLsb' (8 * j) 8 =
      if j ∈ [3, 7, 11, 15] then keyByte key j &&& 0x0f#8
      else if j ∈ [4, 8, 12] then keyByte key j &&& 0xfc#8
      else keyByte key j := by
  rw [multiplier, clamp_extract, keyR_byte key hj, clampMask_byte j hj, apply_ite (keyByte key j &&& ·),
    apply_ite (keyByte key j &&& ·), BitVec.and_allOnes]

/-- Settles O31: CLAMP is the conjunction with its mask bit by bit and slice by slice, so only the bits, bytes and
words of the mask are to be read. -/
theorem clampClearsExactlyTheMaskBits : Obligations.ClampClearsExactlyTheMaskBits :=
  ⟨fun x _ hi => clamp_getLsbD x hi, fun key _ hj => multiplier_byte key hj,
    fun x => ⟨clamp_extract x 0 32, clamp_extract x 32 32, clamp_extract x 64 32, clamp_extract x 96 32⟩⟩

/-! Range and fixpoints (R68). -/

theorem clamp_lt (x : BitVec 128) : (clamp x).toNat < 2 ^ 124 :=
  lt_of_le_of_lt (clamp_le_mask x) (by decide)

theorem clamp_clamp (x : BitVec 128) : clamp (clamp x) = clamp x := by
  rw [clamp, clamp, BitVec.and_assoc, BitVec.and_self]

theorem clamp_zero : clamp 0#128 = 0#128 := BitVec.zero_and

theorem clamp_allOnes : clamp (BitVec.allOnes 128) = clampMask := BitVec.allOnes_and

/-- With multiplier 0 every block product is 0 (R68 (c)). -/
theorem absorb_zero_multiplier (a m : Nat) : absorb a m 0 = 0 := by
  rw [absorb_eq, Nat.mul_zero, Nat.zero_mod]

/-- Settles O32: each part is a law of the conjunction with the mask, and a product with 0 is 0. -/
theorem clampRangeAndFixpoints : Obligations.ClampRangeAndFixpoints :=
  ⟨fun x => ⟨clamp_le_mask x, clamp_lt x⟩, clamp_clamp, clamp_zero, absorb_zero_multiplier, clamp_allOnes⟩

end Sys2Proof.Machine
end

section
/-! PROOFS. Tags that do not depend on the message: the tag of accumulator 0 (R94), and so every tag under a key
whose multiplier is 0 (R112). -/

namespace Sys2Proof.Machine

theorem chainValue_zero_multiplier (msg : List Byte) (k : Nat) : chainValue 0 msg k = 0 := by
  cases k with
  | zero => rfl
  | succ k => exact absorb_zero_multiplier _ _

theorem messageValue_zero_multiplier (msg : List Byte) : messageValue 0 msg = 0 := by
  rw [messageValue, absorb_zero_multiplier, chainValue_zero_multiplier, ite_self]

/-- FINALRED leaves 0 alone and s has 128 bits, so the tag is s, whatever 128-bit s is (R94). -/
theorem tagOf_zero {s : Nat} (hs : s < 2 ^ 128) : tagOf 0 s = leBytes 16 s := by
  have hreduced : finalRed 0 = 0 := by rw [finalRed, freeze_eq_mod (by decide), Nat.zero_mod]
  rw [tagOf, hreduced, addS, Nat.zero_add, Nat.mod_eq_of_lt hs, serialize]

theorem leBytes_keyS (key : Lanes32) : leBytes 16 (keyS key).toNat = keyBytes 16 16 key := by
  have hvalue : (keyS key).toNat = le (keyBytes 16 16 key) := toLanes16_toNat (keyBytes_length 16 16 key)
  have hbytes := leBytes_le (keyBytes 16 16 key)
  rwa [keyBytes_length, ← hvalue] at hbytes

/-- The tag of accumulator 0 is the addend half of the key (R94). -/
theorem tagOf_zero_keyS (key : Lanes32) : tagOf 0 (keyS key).toNat = keyBytes 16 16 key := by
  rw [tagOf_zero (keyS key).isLt, leBytes_keyS]

/-- Settles O41: a zero multiplier keeps the accumulator at 0 over every message, and FINAL then gives the addend
half of the key. -/
theorem zeroMultiplierTagIsKeyHalf : Obligations.ZeroMultiplierTagIsKeyHalf := by
  intro key msg hzero
  calc mac key msg = tagOf (messageValue 0 msg) (keyS key).toNat := by rw [mac, hzero, BitVec.toNat_zero]
    _ = tagOf 0 (keyS key).toNat := by rw [messageValue_zero_multiplier]
    _ = keyBytes 16 16 key := tagOf_zero_keyS key

end Sys2Proof.Machine
end

section
/-! PROOFS. BLOCKINT (R70, R71): the 1 bit above the data is the top bit of the block integer, so the integer gives
the length away, and with it the bytes; and the widths of the values in the accumulator unit (R77). -/

namespace Sys2Proof.Machine

theorem blockInt_ne_zero (b : List Byte) : blockInt b ≠ 0 :=
  Nat.ne_of_gt (Nat.add_pos_right _ (Nat.two_pow_pos _))

/-- The top bit of a block integer is the padding bit, which stands at 8n for a block of n bytes. -/
theorem log_blockInt (b : List Byte) : Nat.log 2 (blockInt b) = 8 * b.length := by
  have hle := le_lt b
  apply Nat.log_eq_of_pow_le_of_lt_pow
  · exact Nat.le_add_left _ _
  · rw [blockInt, pow_succ]
    omega

theorem blockInt_lt_two_pow_iff (b : List Byte) (k : Nat) : blockInt b < 2 ^ k ↔ 8 * b.length < k := by
  rw [← log_blockInt, Nat.log_lt_iff_lt_pow Nat.one_lt_two (blockInt_ne_zero b)]

theorem two_pow_le_blockInt_iff (b : List Byte) (k : Nat) : 2 ^ k ≤ blockInt b ↔ k ≤ 8 * b.length := by
  rw [← Nat.not_lt, blockInt_lt_two_pow_iff, Nat.not_lt]

/-- The top bit gives the length, and what is below it gives the bytes. -/
theorem blockInt_injective : Function.Injective blockInt := by
  intro b c h
  have hlen : b.length = c.length := by
    have hlog := log_blockInt b
    rw [h, log_blockInt] at hlog
    omega
  apply le_injective hlen
  rw [blockInt, blockInt, hlen] at h
  exact Nat.add_right_cancel h

/-- Settles O33: the ranges compare the place of the padding bit with the length, and BLOCKINT is injective on all
byte strings. -/
theorem blockIntegersAreUnambiguous : Obligations.BlockIntegersAreUnambiguous := by
  refine ⟨fun b _ hmax => ?range, fun _ _ _ _ _ _ h => blockInt_injective h⟩
  simp only [two_pow_le_blockInt_iff, blockInt_lt_two_pow_iff]
  exact ⟨by omega, by omega, by omega, by omega, by omega, blockInt_ne_zero b⟩

/-- Settles O34, value by value from the block to the result. -/
theorem intermediateValuesFitTheirWidths : Obligations.IntermediateValuesFitTheirWidths := by
  intro a b key ha hmin hmax
  have hm_low : 2 ^ 8 ≤ blockInt b := (two_pow_le_blockInt_iff b 8).mpr (by omega)
  have hm_high : blockInt b < 2 ^ 129 := (blockInt_lt_two_pow_iff b 129).mpr (by omega)
  have hu : addBlk a (blockInt b) < 3 * 2 ^ 129 := by
    rw [addBlk]
    omega
  have hr := multiplier_lt key
  have hproduct : mulR (addBlk a (blockInt b)) (multiplier key).toNat < 3 * 2 ^ 253 :=
    calc mulR (addBlk a (blockInt b)) (multiplier key).toNat
        < 3 * 2 ^ 129 * 2 ^ 124 := Nat.mul_lt_mul'' hu hr
      _ = 3 * 2 ^ 253 := by norm_num
  exact ⟨hm_low, hm_high, Nat.le_add_left_of_le hm_low, hu, hr, hproduct, absorb_lt _ _ _⟩

end Sys2Proof.Machine
end

section
/-! PROOFS. The accumulator as a polynomial in the multiplier (R76): one block step is one step of Horner's rule. -/

namespace Sys2Proof.Machine

/-- m_1·r^k + … + m_k·r, the polynomial of the first k values of a sequence (R76). -/
def blockPolynomial (r : Nat) (m : Nat → Nat) (k : Nat) : Nat := ∑ i ∈ Finset.range k, m i * r ^ (k - i)

theorem blockPolynomial_zero (r : Nat) (m : Nat → Nat) : blockPolynomial r m 0 = 0 := rfl

/-- Horner's rule: a further value multiplies every earlier term by r. -/
theorem blockPolynomial_succ (r : Nat) (m : Nat → Nat) (k : Nat) :
    blockPolynomial r m (k + 1) = (blockPolynomial r m k + m k) * r := by
  have hterm : ∀ i ∈ Finset.range k, m i * r ^ (k + 1 - i) = m i * r ^ (k - i) * r := by
    intro i hi
    rw [Nat.succ_sub (Finset.mem_range.mp hi).le, pow_succ, mul_assoc]
  rw [blockPolynomial, Finset.sum_range_succ, Finset.sum_congr rfl hterm, ← Finset.sum_mul, Nat.add_sub_cancel_left,
    pow_one, ← add_mul, blockPolynomial]

theorem absorb_blockPolynomial (r : Nat) (m : Nat → Nat) (k : Nat) :
    absorb (blockPolynomial r m k % prime) (m k) r = blockPolynomial r m (k + 1) % prime := by
  rw [absorb_congr (Nat.mod_modEq _ _), absorb_eq, blockPolynomial_succ]

theorem foldl_absorb_take (r : Nat) (ms : List Nat) {k : Nat} (hk : k ≤ ms.length) :
    (ms.take k).foldl (fun a m => absorb a m r) 0 = blockPolynomial r (ms.getD · 0) k % prime := by
  induction k with
  | zero => rfl
  | succ k ih =>
    rw [List.take_succ_eq_append_getElem hk, List.foldl_concat, ih (Nat.le_of_succ_le hk),
      ← List.getD_eq_getElem ms 0 hk]
    exact absorb_blockPolynomial r (ms.getD · 0) k

theorem chainValue_eq_blockPolynomial (rc : Nat) (msg : List Byte) (k : Nat) :
    chainValue rc msg k = blockPolynomial rc (fun i => blockInt (messageBlock msg i)) k % prime := by
  induction k with
  | zero => rfl
  | succ k ih =>
    rw [chainValue, ih]
    exact absorb_blockPolynomial rc (fun i => blockInt (messageBlock msg i)) k

/-- Settles O40: both chains take one step of Horner's rule for each block. -/
theorem accumulatorIsPolynomial : Obligations.AccumulatorIsPolynomial := by
  refine ⟨fun r ms => ?_, chainValue_eq_blockPolynomial⟩
  have h := foldl_absorb_take r ms (Nat.le_refl _)
  rwa [List.take_length] at h

end Sys2Proof.Machine
end

section
/-! PROOFS. The blocks that UPDATE and FINAL absorb, as lists of blocks, and that their number is the one R79 and
R103 give. -/

namespace Sys2Proof.Machine

open Certificates

/-! The bytes of T, read position by position (R100). -/

theorem pendingBytes_getElem {s : State} {j : Nat} (hj : j < (pendingBytes s).length) :
    (pendingBytes s)[j] = arrivedByte s j := by
  have hused : j < s.buflen.toNat := by rwa [pendingBytes_length] at hj
  have hbuf : j < s.buf.toList.length := by
    rw [Vector.length_toList]
    have := s.buflen.isLt
    omega
  rw [arrivedByte, if_pos hused, List.getD_eq_getElem _ _ hbuf]
  exact List.getElem_take

theorem map_arrivedByte_pending (s : State) :
    (List.range s.buflen.toNat).map (arrivedByte s) = pendingBytes s := by
  apply List.ext_getElem
  · simp
  · intro j _ hj
    rw [List.getElem_map, List.getElem_range, pendingBytes_getElem hj]

theorem map_arrivedByte_gathered (n : Nat) (s : State) :
    (List.range (s.buflen.toNat + n)).map (arrivedByte s) = gatheredBytes n s := by
  have hbeat : arrivedByte s ∘ (s.buflen.toNat + ·) = dinByte s.port.din := by
    funext j
    simp [arrivedByte]
  rw [List.range_add, List.map_append, map_arrivedByte_pending, List.map_map, hbeat, gatheredBytes, beatBytes]

/-! UPDATE. -/

/-- The blocks an UPDATE absorbs: the first 16 bytes of T when T has that many (R100). -/
def fullBlocks (t : List Byte) : List (List Byte) := if 16 ≤ t.length then [t.take 16] else []

theorem fullBlocks_of_full {t : List Byte} (h : 16 ≤ t.length) : fullBlocks t = [t.take 16] := if_pos h

theorem fullBlocks_of_short {t : List Byte} (h : t.length < 16) : fullBlocks t = [] := if_neg (Nat.not_le.mpr h)

theorem fullBlocks_length {t : List Byte} (h : t.length ≤ 31) : (fullBlocks t).length = t.length / 16 := by
  by_cases hfull : 16 ≤ t.length
  · rw [fullBlocks_of_full hfull, List.length_singleton]
    omega
  · rw [fullBlocks_of_short (by omega), List.length_nil]
    omega

theorem length_of_mem_fullBlocks {t b : List Byte} (h : b ∈ fullBlocks t) : b.length = 16 := by
  by_cases hfull : 16 ≤ t.length
  · rw [fullBlocks_of_full hfull, List.mem_singleton] at h
    rw [h, List.length_take_of_le hfull]
  · rw [fullBlocks_of_short (by omega)] at h
    cases h

/-- An UPDATE cuts T into the blocks it absorbs and the bytes it keeps. -/
theorem fullBlocks_flatten_append_leftover (t : List Byte) : (fullBlocks t).flatten ++ leftover t = t := by
  by_cases hfull : 16 ≤ t.length
  · rw [fullBlocks_of_full hfull, leftover, if_pos hfull, List.flatten_singleton, List.take_append_drop]
  · rw [fullBlocks_of_short (by omega), leftover_of_short (by omega), List.flatten_nil, List.nil_append]

theorem foldl_absorb_fullBlocks (acc : BitVec 130) (t : List Byte) (rc : BitVec 128) :
    (fullBlocks t).foldl (fun a b => absorb a (blockInt b) rc.toNat) acc.toNat = (absorbFirst acc t rc).toNat := by
  by_cases hfull : 16 ≤ t.length
  · rw [fullBlocks_of_full hfull, absorbFirst_full hfull, List.foldl_cons, List.foldl_nil]
  · rw [fullBlocks_of_short (by omega), absorbFirst_short (by omega), List.foldl_nil]

/-- The number of blocks of T is the count of `len` and BUFLEN (R103). -/
theorem fullBlocks_gathered_length {i : Instr} (h : i.isUpdate = true) (s : State) :
    (fullBlocks (gatheredBytes i.beatLength s)).length = absorbCount i s.buflen := by
  have hbeat := beatLength_le i
  have hpending := s.buflen.isLt
  rw [fullBlocks_length (by rw [gatheredBytes_length]; omega), gatheredBytes_length, absorbCount_update h]

/-! FINAL. -/

/-- The blocks FINAL absorbs: the pending bytes as one block when there are any (R101). -/
def closingBlocks (s : State) : List (List Byte) := if 0 < s.buflen.toNat then [pendingBytes s] else []

theorem closingBlocks_of_pending {s : State} (h : 0 < s.buflen.toNat) : closingBlocks s = [pendingBytes s] :=
  if_pos h

theorem closingBlocks_of_empty {s : State} (h : s.buflen.toNat = 0) : closingBlocks s = [] :=
  if_neg (by omega)

theorem closingBlocks_length (s : State) : (closingBlocks s).length = absorbCount .final s.buflen := by
  rw [closingBlocks, absorbCount, apply_ite List.length, List.length_singleton, List.length_nil]

theorem length_of_mem_closingBlocks {s : State} {b : List Byte} (h : b ∈ closingBlocks s) :
    1 ≤ b.length ∧ b.length ≤ 15 := by
  have hlt := s.buflen.isLt
  rcases Nat.eq_zero_or_pos s.buflen.toNat with hempty | hpending
  · rw [closingBlocks_of_empty hempty] at h
    cases h
  · rw [closingBlocks_of_pending hpending, List.mem_singleton] at h
    rw [h, pendingBytes_length]
    omega

theorem closingBlocks_flatten (s : State) : (closingBlocks s).flatten = pendingBytes s := by
  rcases Nat.eq_zero_or_pos s.buflen.toNat with hempty | hpending
  · rw [closingBlocks_of_empty hempty, List.flatten_nil, pendingBytes, hempty, List.take_zero]
  · rw [closingBlocks_of_pending hpending, List.flatten_singleton]

theorem foldl_absorb_closingBlocks (s : State) :
    (closingBlocks s).foldl (fun a b => absorb a (blockInt b) (multiplier s.port.key).toNat) s.acc.toNat =
      closingAcc s := by
  rcases Nat.eq_zero_or_pos s.buflen.toNat with hempty | hpending
  · rw [closingBlocks_of_empty hempty, List.foldl_nil, closingAcc, if_neg (by omega)]
  · rw [closingBlocks_of_pending hpending, List.foldl_cons, List.foldl_nil, closingAcc, if_pos hpending]

/-- What FINAL hands to the finalizer fits ACC. -/
theorem closingAcc_lt (s : State) : closingAcc s < 2 ^ 130 := by
  rw [closingAcc]
  split
  · exact (absorb_lt _ _ _).trans prime_lt
  · exact s.acc.isLt

/-- The tag of FINAL as an integer (R101). -/
theorem closingTag_toNat (s : State) :
    (closingTag s).toNat = (closingAcc s % prime + (keyS s.port.key).toNat) % 2 ^ 128 := by
  rw [closingTag, toLanes16_tagOf, addS, finalRed, freeze_eq_mod (closingAcc_lt s)]

/-! The count. -/

theorem absorbCount_le_one (i : Instr) (buflen : BitVec 4) : absorbCount i buflen ≤ 1 := by
  by_cases h : i.isUpdate = true
  · have hbeat := beatLength_le i
    have hpending := buflen.isLt
    rw [absorbCount_update h]
    omega
  · cases i with
    | nop => exact Nat.zero_le 1
    | init => exact Nat.zero_le 1
    | update len => exact absurd rfl h
    | update16 => exact absurd rfl h
    | final =>
      rw [absorbCount]
      split <;> decide

/-- Settles O27: the blocks are those of `fullBlocks` and `closingBlocks`, which cut up T and the pending bytes. -/
theorem absorbedBlocksAreCountedByLength : Obligations.AbsorbedBlocksAreCountedByLength := by
  refine ⟨fun i s hi hl => ?update, fun s hl => ?final, fun buflen => ⟨rfl, rfl, (absorbCount_le_one · buflen)⟩⟩
  case update =>
    refine ⟨updateLive i.beatLength s, fullBlocks (gatheredBytes i.beatLength s), exec_update_of_live hi hl,
      fullBlocks_gathered_length hi s, fun _ => length_of_mem_fullBlocks, ?cut,
      (foldl_absorb_fullBlocks _ _ _).symm⟩
    case cut => rw [map_arrivedByte_pending, map_arrivedByte_gathered, pendingBytes_updateLive (beatLength_le i),
        fullBlocks_flatten_append_leftover]
  case final =>
    refine ⟨closeMessage s, closingBlocks s, exec_final s, closingBlocks_length s,
      fun _ => length_of_mem_closingBlocks, ?bytes, ?tag⟩
    case bytes => rw [map_arrivedByte_pending, closingBlocks_flatten]
    case tag =>
      rw [closeMessage_tag_of_live hl, closingTag_toNat, ← foldl_absorb_closingBlocks]
      rfl

end Sys2Proof.Machine
end

section
/-! PROOFS. The folding unit (R80 to R83): a fold moves the part above bit 130 down by a multiple of P, two folds
bring a 255-bit value into the width of FREEZE, and FREEZE leaves the remainder. -/

namespace Sys2Proof.Machine

/-! One fold. -/

/-- A fold takes away P for each 2^130 in its operand. -/
theorem fold_add_prime_mul (x : Nat) : fold x + prime * (x / 2 ^ 130) = x := by
  rw [fold, prime]
  omega

/-- R81 (a). -/
theorem fold_modEq (x : Nat) : fold x ≡ x [MOD prime] := by
  have h : fold x + prime * (x / 2 ^ 130) ≡ fold x [MOD prime] := Nat.add_mul_mod_self_left _ _ _
  rw [fold_add_prime_mul] at h
  exact h.symm

/-- R81 (b). -/
theorem fold_of_lt {x : Nat} (hx : x < 2 ^ 130) : fold x = x := by
  rw [fold, Nat.mod_eq_of_lt hx, Nat.div_eq_of_lt hx, Nat.mul_zero, Nat.add_zero]

/-- R81 (c): the low part is below 2^130 and the part above bit 130 is below 2^125. -/
theorem fold_lt {x : Nat} (hx : x < 2 ^ 255) : fold x < 2 ^ 130 + 5 * 2 ^ 125 := by
  have hlow : x % 2 ^ 130 < 2 ^ 130 := Nat.mod_lt x (Nat.two_pow_pos 130)
  have hhigh : x / 2 ^ 130 < 2 ^ 125 := Nat.div_lt_of_lt_mul hx
  rw [fold]
  omega

/-- R81 (d): an operand with bit 130 set leaves a low part below 5·2^125, which 5 more does not carry to 2^130. -/
theorem fold_lt_of_lt_fold_bound {y : Nat} (hy : y < 2 ^ 130 + 5 * 2 ^ 125) : fold y < 2 ^ 130 := by
  rcases Nat.lt_or_ge y (2 ^ 130) with hshort | hcarry
  · rwa [fold_of_lt hshort]
  · have hhigh : y / 2 ^ 130 = 1 := by omega
    have hlow : y % 2 ^ 130 = y - 2 ^ 130 := by omega
    rw [fold, hhigh, hlow]
    omega

/-! Two folds. -/

theorem fold_fold_lt {x : Nat} (hx : x < 2 ^ 255) : fold (fold x) < 2 ^ 130 :=
  fold_lt_of_lt_fold_bound (fold_lt hx)

theorem fold_fold_modEq (x : Nat) : fold (fold x) ≡ x [MOD prime] := (fold_modEq (fold x)).trans (fold_modEq x)

/-- Settles O35: the residue, the short case and the two bounds, a lemma each, then the two bounds in a row. -/
theorem foldKeepsResidueAndShrinks : Obligations.FoldKeepsResidueAndShrinks := by
  refine ⟨fold_modEq, fun _ => fold_of_lt, fun x hx => ⟨fold_lt hx, ?width⟩, fun _ => fold_lt_of_lt_fold_bound,
    fun x hx => ⟨fold_fold_lt hx, fold_fold_modEq x⟩, ?value, ?bit⟩
  case width => exact (fold_lt hx).trans (by decide)
  case value => decide
  case bit => decide

/-! The freeze, and the unit as a whole. -/

theorem freeze_lt {y : Nat} (hy : y < 2 ^ 130) : freeze y < prime := by
  rw [freeze_eq_mod hy]
  exact Nat.mod_lt y prime_pos

theorem freeze_freeze {y : Nat} (hy : y < 2 ^ 130) : freeze (freeze y) = freeze y := by
  have h := freeze_lt hy
  rw [freeze_eq_mod (h.trans prime_lt), Nat.mod_eq_of_lt h]

/-- Settles O36: the selection is FREEZE's definition, and the rest follows from its two value forms. -/
theorem freezeIsRemainder : Obligations.FreezeIsRemainder :=
  fun y hy => ⟨rfl, freeze_eq_ite y hy, freeze_eq_mod hy, freeze_lt hy, freeze_freeze hy⟩

/-- R83: after two folds the operand has the width of FREEZE and the residue of x. -/
theorem reduceByFolding_eq_reduce {x : Nat} (hx : x < 2 ^ 255) : reduceByFolding x = reduce x := by
  rw [reduceByFolding, freeze_eq_mod (fold_fold_lt hx)]
  exact fold_fold_modEq x

/-- Settles O37: the folding unit agrees with the normative line, which is the remainder. -/
theorem foldingUnitComputesRemainder : Obligations.FoldingUnitComputesRemainder :=
  fun x hx => ⟨reduceByFolding_eq_reduce hx, (reduceByFolding_eq_reduce hx).symm, reduce_lt x⟩

end Sys2Proof.Machine
end

section
/-! PROOFS. The finalizer unit as one formula (R92), and the tag of FINAL when no block was absorbed (R94). -/

namespace Sys2Proof.Machine

/-- R92: the freeze of a 130-bit value is its remainder, and s is added to that. -/
theorem addS_finalRed {a : Nat} (ha : a < 2 ^ 130) (s : Nat) :
    addS (finalRed a) s = (a % prime + s) % 2 ^ 128 := by
  rw [addS, finalRed, freeze_eq_mod ha]

theorem tagOf_eq_leBytes {a : Nat} (ha : a < 2 ^ 130) (s : Nat) :
    tagOf a s = leBytes 16 ((a % prime + s) % 2 ^ 128) := by
  rw [tagOf, serialize, addS_finalRed ha]

/-- Settles O38: TAGOF is LEBYTES_16 of the truncated sum, and its bytes laid on the lanes of TAG are read back. -/
theorem tagIsReducedSumSerialized : Obligations.TagIsReducedSumSerialized := by
  refine fun a s ha => ⟨?length, fun j hj => ?byte, ?value, tagBytes_toLanes16_tagOf a s⟩
  case length => exact leBytes_length 16 _
  case byte => rw [tagOf_eq_leBytes ha]; exact leBytes_getElem? _ hj
  case value => rw [toLanes16_tagOf]; exact addS_finalRed ha s

/-- R101: the tag bytes after FINAL on a live state are TAGOF of the closing accumulator and s. -/
theorem tagOutBytes_closeMessage_of_live {s : State} (hl : s.live = true) :
    tagOutBytes (closeMessage s) = tagOf (closingAcc s) (keyS s.port.key).toNat := by
  rw [tagOutBytes, tagOut, closeMessage_tag_of_live hl, closingTag, tagBytes_toLanes16_tagOf]

theorem closingAcc_of_empty {s : State} (h : s.buflen = 0#4) : closingAcc s = s.acc.toNat := by
  rw [closingAcc, h]
  exact if_neg (Nat.lt_irrefl 0)

/-- Settles O20: with no pending byte FINAL hands ACC = 0 to the finalizer, and TAGOF(0, s) is the addend half. -/
theorem emptyMessageTagIsKeyHalf : Obligations.EmptyMessageTagIsKeyHalf := by
  refine fun s hl hacc hbuflen => ⟨closeMessage s, exec_final s, ?_⟩
  have hclosing : closingAcc s = 0 := by rw [closingAcc_of_empty hbuflen, hacc, BitVec.toNat_zero]
  rw [tagOutBytes_closeMessage_of_live hl, hclosing]
  exact tagOf_zero_keyS s.port.key

end Sys2Proof.Machine
end

section
/-! PROOFS. FINAL on a state that tracks a message (R101, R107). -/

namespace Sys2Proof.Machine

/-- The trailing partial block that FINAL absorbs is the one that MAC absorbs. -/
theorem closingAcc_of_tracks {s : State} {msg : List Byte} {updated : Bool}
    (h : s.Tracks s.port.key msg updated) :
    closingAcc s = messageValue (multiplier s.port.key).toNat msg := by
  have hpending := pendingBytes_of_tracks h
  obtain ⟨hacc, hbuflen, -, -, -⟩ := h
  rw [closingAcc, messageValue, hacc, hbuflen, hpending]
  simp only [Nat.pos_iff_ne_zero]

theorem tagOutBytes_closeMessage_of_tracks {s : State} {msg : List Byte} {updated : Bool}
    (h : s.Tracks s.port.key msg updated) : tagOutBytes (closeMessage s) = mac s.port.key msg := by
  rw [tagOutBytes_closeMessage_of_live (live_of_tracks h), closingAcc_of_tracks h, mac]

/-- Settles O44: FINAL hands the finalizer the accumulator of the whole message. -/
theorem finalGivesMacOfTrackedMessage : Obligations.FinalGivesMacOfTrackedMessage :=
  fun s _ _ h => ⟨closeMessage s, exec_final s, tagOutBytes_closeMessage_of_tracks h, closeMessage_tv s,
    closeMessage_live s⟩

end Sys2Proof.Machine
end

section
/-! PROOFS. A whole message from INIT to FINAL (R108): what one pin value of such a script does, then the run of
each stretch of it. -/

namespace Sys2Proof.Machine

open Certificates

/-! What pin values offer and deliver (R48, R52). -/

theorem offeredCommand_eq_some_iff {p : Port} {i : Instr} :
    offeredCommand p = some i ↔ p.rst = false ∧ p.cmdValid = true ∧ decode p.cw = .ok i := by
  rw [offeredCommand]
  rcases decode p.cw with r | j
  · simp
  · simp [and_assoc]

theorem offeredCommand_idle {p : Port} (hv : p.cmdValid = false) : offeredCommand p = none := by
  simp [offeredCommand, hv]

theorem deliveredBytes_of_offered {p : Port} {i : Instr} (h : offeredCommand p = some i) :
    deliveredBytes p = beatBytes i.beatLength p.din := by
  rw [deliveredBytes, h]

theorem deliveredBytes_of_none {p : Port} (h : offeredCommand p = none) : deliveredBytes p = [] := by
  rw [deliveredBytes, h]

theorem step_of_offered {s : State} {p : Port} {rest : List Port} (hs : s.script = p :: rest) {i : Instr}
    (h : offeredCommand p = some i) : step s = exec i (present p rest s) := by
  obtain ⟨hr, hv, hd⟩ := offeredCommand_eq_some_iff.mp h
  exact step_command hs hr hv hd

/-! Runs along a script. -/

theorem runScript_trans {a b : Nat} {s t u : State} (hfirst : runScript a s = .next t)
    (hsecond : runScript b t = .next u) : runScript (a + b) s = .next u := by
  rw [runScript_add hfirst, hsecond]

/-- A run over pin values that each satisfy `Allowed`: what holds before and is extended by every step over such a
pin value holds after all of them. `Inv` may speak of the pin values taken so far. -/
theorem exists_runScript {Allowed : Port → Prop} {Inv : List Port → State → Prop}
    (hstep : ∀ {taken p rest s}, Allowed p → s.script = p :: rest → Inv taken s →
      ∃ t, step s = .next t ∧ Inv (taken ++ [p]) t ∧ t.script = rest)
    {ps : List Port} (hps : ∀ p ∈ ps, Allowed p) {taken rest : List Port} {s : State}
    (hs : s.script = ps ++ rest) (h : Inv taken s) :
    ∃ t, runScript ps.length s = .next t ∧ Inv (taken ++ ps) t ∧ t.script = rest := by
  induction ps generalizing s taken with
  | nil => exact ⟨s, runScript_zero s, by rwa [List.append_nil], hs⟩
  | cons p ps ih =>
    obtain ⟨hp, hrest⟩ := List.forall_mem_cons.mp hps
    obtain ⟨u, hu, hinv, huscript⟩ := hstep hp hs h
    obtain ⟨t, ht, htinv, htscript⟩ := ih hrest huscript hinv
    rw [List.append_assoc] at htinv
    exact ⟨t, by rw [List.length_cons, runScript_succ hu, ht], htinv, htscript⟩

/-! Pauses and NOPs. -/

theorem step_quiet {s : State} {p : Port} {rest : List Port} (hp : quiet p) (hs : s.script = p :: rest) :
    step s = .next (present p rest s) := by
  obtain ⟨hr, hv | hnop⟩ := hp
  · exact step_idle hs hr hv
  · rw [step_of_offered hs hnop, exec_nop]

theorem runScript_quiet {ps rest : List Port} {s : State} (hps : ∀ p ∈ ps, quiet p)
    (hs : s.script = ps ++ rest) :
    ∃ t, runScript ps.length s = .next t ∧ sameRegisters s t ∧ t.script = rest :=
  exists_runScript (Inv := fun _ => sameRegisters s) (taken := [])
    (fun {_ p rest u} hp hu h => ⟨present p rest u, step_quiet hp hu, h, present_script p rest u⟩) hps hs
    ⟨rfl, rfl, rfl, rfl, rfl, rfl, rfl⟩

/-! The pin values of a message. -/

/-- The accumulator invariant after the pin values `ps` of a message under the key `key` (R15, R108). -/
def TracksDelivered (key : Lanes32) (ps : List Port) (s : State) : Prop :=
  s.Tracks key (deliveredMessage ps) (ps.any fun p => (offeredCommand p).any Instr.isUpdate)

theorem present_tracks {key : Lanes32} {msg : List Byte} {updated : Bool} {s : State}
    (h : s.Tracks key msg updated) (p : Port) (rest : List Port) : (present p rest s).Tracks key msg updated := h

/-- A pin value that delivers no UPDATE leaves the message as it is. -/
theorem tracksDelivered_concat_of_quiet {key : Lanes32} {ps : List Port} {s : State} {p : Port}
    (h : TracksDelivered key ps s) (hp : quiet p) : TracksDelivered key (ps ++ [p]) s := by
  obtain ⟨-, hv | hnop⟩ := hp
  · simpa [TracksDelivered, deliveredMessage, deliveredBytes_of_none, offeredCommand_idle hv] using h
  · simpa [TracksDelivered, deliveredMessage, deliveredBytes_of_offered hnop, hnop, Instr.beatLength,
      Instr.isUpdate] using h

/-- An UPDATE with the message's key extends the message by its beat. -/
theorem tracksDelivered_concat_of_update {key : Lanes32} {ps : List Port} {s : State} {p : Port} {i : Instr}
    (h : TracksDelivered key ps s) (hp : offeredCommand p = some i) (hi : i.isUpdate = true) (hkey : p.key = key)
    (rest : List Port) : TracksDelivered key (ps ++ [p]) (updateLive i.beatLength (present p rest s)) := by
  subst hkey
  have hbeat := updateLive_tracks (beatLength_le i) (s := present p rest s) (present_tracks h p rest)
  simpa [TracksDelivered, deliveredMessage, deliveredBytes_of_offered hp, hp, hi] using hbeat

theorem step_inMessage {key : Lanes32} {taken : List Port} {p : Port} {rest : List Port} {s : State}
    (hp : p.inMessage key) (hs : s.script = p :: rest) (h : TracksDelivered key taken s) :
    ∃ t, step s = .next t ∧ TracksDelivered key (taken ++ [p]) t ∧ t.script = rest := by
  have hquiet (hq : quiet p) : ∃ t, step s = .next t ∧ TracksDelivered key (taken ++ [p]) t ∧ t.script = rest :=
    ⟨present p rest s, step_quiet hq hs, tracksDelivered_concat_of_quiet h hq, rfl⟩
  obtain ⟨hr, hv | hnop | ⟨i, hoffer, hi, hkey⟩⟩ := hp
  · exact hquiet ⟨hr, .inl hv⟩
  · exact hquiet ⟨hr, .inr hnop⟩
  · have hlive : (present p rest s).live = true := live_of_tracks h
    exact ⟨updateLive i.beatLength (present p rest s),
      by rw [step_of_offered hs hoffer, exec_update_of_live hi hlive],
      tracksDelivered_concat_of_update h hoffer hi hkey rest, rfl⟩

theorem step_init {s : State} {start : Port} {rest : List Port} (hstart : offeredCommand start = some .init)
    (hs : s.script = start :: rest) (key : Lanes32) :
    ∃ t, step s = .next t ∧ TracksDelivered key [] t ∧ t.script = rest :=
  ⟨startMessage (present start rest s), step_of_offered hs hstart, startMessage_tracks _ key, rfl⟩

theorem step_final {s : State} {close : Port} {rest ps : List Port} (hclose : offeredCommand close = some .final)
    (hs : s.script = close :: rest) (h : TracksDelivered close.key ps s) :
    ∃ t, step s = .next t ∧ tagOutBytes t = mac close.key (deliveredMessage ps) ∧ t.tv = true ∧
      t.live = false ∧ t.script = rest :=
  ⟨closeMessage (present close rest s), step_of_offered hs hclose,
    tagOutBytes_closeMessage_of_tracks (s := present close rest s) (present_tracks h close rest), rfl, rfl, rfl⟩

/-! The whole message. -/

section
variable {before middle rest : List Port} {start : Port} {key : Lanes32} {s : State}
  (hbefore : ∀ p ∈ before, quiet p) (hstart : offeredCommand start = some .init)
  (hmiddle : ∀ p ∈ middle, p.inMessage key)
include hbefore hstart hmiddle

/-- From every state the run before the FINAL ends in the state that the accumulator invariant gives. -/
theorem runScript_before_final (hs : s.script = before ++ start :: (middle ++ rest)) :
    ∃ u, runScript (before.length + 1 + middle.length) s = .next u ∧ TracksDelivered key middle u ∧
      u.script = rest := by
  obtain ⟨s₁, hrun₁, -, hs₁⟩ := runScript_quiet hbefore hs
  obtain ⟨s₂, hstep₂, htracks₂, hs₂⟩ := step_init hstart hs₁ key
  obtain ⟨u, hrun, htracks, hu⟩ := exists_runScript step_inMessage hmiddle hs₂ htracks₂
  exact ⟨u, runScript_trans (runScript_trans hrun₁ (runScript_one hstep₂)) hrun, htracks, hu⟩

/-- FINAL then gives the MAC of what was delivered, and pauses and NOPs after it leave the tag alone. -/
theorem runScript_message {after : List Port} {close : Port} (hclose : offeredCommand close = some .final)
    (hkey : close.key = key) (hafter : ∀ p ∈ after, quiet p)
    (hs : s.script = before ++ start :: (middle ++ close :: (after ++ rest))) :
    ∃ t, runScript (before.length + 1 + middle.length + 1 + after.length) s = .next t ∧
      tagOutBytes t = mac key (deliveredMessage middle) ∧ t.tv = true ∧ t.live = false ∧ t.script = rest := by
  subst hkey
  obtain ⟨u, hrun, htracks, hu⟩ := runScript_before_final hbefore hstart hmiddle hs
  obtain ⟨v, hstep, hmac, htv, hlive, hv⟩ := step_final hclose hu htracks
  obtain ⟨t, hrun', ⟨-, -, -, -, hlive', htv', htag'⟩, ht⟩ := runScript_quiet hafter hv
  have htag : tagOutBytes t = tagOutBytes v := congrArg tagBytes htag'
  exact ⟨t, runScript_trans (runScript_trans hrun (runScript_one hstep)) hrun', htag.trans hmac,
    htv'.trans htv, hlive'.trans hlive, ht⟩

end

/-- Settles O45: INIT begins the accumulator invariant, every pin value of the message extends it by what it
delivers, and FINAL on a state that meets it gives the MAC, which pauses and NOPs leave alone. -/
theorem beatBoundariesDoNotMatter : Obligations.BeatBoundariesDoNotMatter := by
  intro s key before middle after rest start close hbefore hstart hmiddle hclose hkey hafter hs
  obtain ⟨u, hrun, htracks, -⟩ := runScript_before_final hbefore hstart hmiddle hs
  exact ⟨⟨u, hrun, htracks⟩, runScript_message hbefore hstart hmiddle hclose hkey hafter hs⟩

end Sys2Proof.Machine
end

section
/-! PROOFS. The one-shot AUTH (R62, R106): the pins that its lines drive, and that the beats of CHUNK are the message
cut up. -/

namespace Sys2Proof.Machine

/-! The pins that offer one command (R59). -/

theorem offeredCommand_commandPort (i : Instr) (din : Lanes16) (key : Lanes32) :
    offeredCommand (commandPort (encode i) din key) = some i :=
  offeredCommand_eq_some_iff.mpr ⟨rfl, rfl, decode_encode i⟩

theorem offeredCommand_beatPort (b : List Byte) (key : Lanes32) :
    offeredCommand (beatPort b key) = some (updateOf b.length) :=
  offeredCommand_commandPort _ _ _

theorem updateOf_of_lt {n : Nat} (h : n < 16) : updateOf n = .update (BitVec.ofNat 4 n) := if_pos h

theorem updateOf_sixteen : updateOf 16 = .update16 := rfl

/-- Bytes laid on the lanes of DIN are read back (R36, R52). -/
theorem beatBytes_toLanes16 {b : List Byte} (h : b.length ≤ 16) : beatBytes b.length (toLanes16 b) = b := by
  apply le_injective (beatBytes_length _ _)
  have hlt := le_lt b
  have hfits : le b < 2 ^ 128 := hlt.trans_le (Nat.pow_le_pow_right Nat.two_pos (by omega))
  rw [le_beatBytes, toLanes16, BitVec.toNat_ofNat, Nat.mod_eq_of_lt hfits, Nat.mod_eq_of_lt hlt]

theorem deliveredBytes_beatPort {b : List Byte} (h : b.length ≤ 16) (key : Lanes32) :
    deliveredBytes (beatPort b key) = b := by
  rw [deliveredBytes_of_offered (offeredCommand_beatPort b key), updateOf_beatLength h]
  exact beatBytes_toLanes16 h

theorem beatPort_inMessage (b : List Byte) (key : Lanes32) : (beatPort b key).inMessage key :=
  ⟨rfl, .inr (.inr ⟨_, offeredCommand_beatPort b key, updateOf_isUpdate _, rfl⟩)⟩

/-! The beats of CHUNK (R62). -/

theorem messageBlock_length {msg : List Byte} {i : Nat} (hi : i < msg.length / 16) :
    (messageBlock msg i).length = 16 := by
  rw [messageBlock, List.length_take, List.length_drop]
  omega

theorem flatten_messageBlocks (msg : List Byte) (k : Nat) :
    ((List.range k).map (messageBlock msg)).flatten = msg.take (16 * k) := by
  induction k with
  | zero => rfl
  | succ k ih =>
    rw [List.range_succ, List.map_append, List.flatten_append, ih, Nat.mul_succ, List.take_add]
    simp [messageBlock]

/-- The beats are the message cut up. -/
theorem chunkBeats_flatten (msg : List Byte) : (chunkBeats msg).flatten = msg := by
  have htail : (if msg.length % 16 ≠ 0 then [tailBytes msg] else []).flatten = tailBytes msg := by
    split
    case isTrue => exact List.flatten_singleton
    case isFalse hnone =>
      exact (List.length_eq_zero_iff.mp ((tailBytes_length msg).trans (not_not.mp hnone))).symm
  rw [chunkBeats, List.flatten_append, flatten_messageBlocks, htail, tailBytes, List.take_append_drop]

/-- Full beats, then the rest if there is any. -/
theorem map_length_chunkBeats (msg : List Byte) :
    (chunkBeats msg).map List.length =
      List.replicate (msg.length / 16) 16 ++ (if msg.length % 16 ≠ 0 then [msg.length % 16] else []) := by
  have hblocks : ((List.range (msg.length / 16)).map (messageBlock msg)).map List.length =
      List.replicate (msg.length / 16) 16 := by
    have hfull (i : Nat) (hi : i ∈ List.range (msg.length / 16)) : (List.length ∘ messageBlock msg) i = 16 :=
      messageBlock_length (List.mem_range.mp hi)
    rw [List.map_map, List.map_congr_left hfull, List.map_const', List.length_range]
  rw [chunkBeats, List.map_append, hblocks, apply_ite (List.map List.length), List.map_singleton, tailBytes_length,
    List.map_nil]

theorem length_of_mem_chunkBeats {msg b : List Byte} (h : b ∈ chunkBeats msg) : b.length ≤ 16 := by
  have hmem := List.mem_map_of_mem (f := List.length) h
  rw [map_length_chunkBeats, List.mem_append] at hmem
  rcases hmem with hfull | hrest
  · exact (List.eq_of_mem_replicate hfull).le
  · obtain ⟨-, hlen⟩ := List.mem_ite_nil_right.mp hrest
    rw [List.mem_singleton.mp hlen]
    omega

theorem chunk_inMessage {key : Lanes32} {msg : List Byte} : ∀ p ∈ chunk key msg, p.inMessage key :=
  List.forall_mem_map.mpr fun b _ => beatPort_inMessage b key

theorem deliveredMessage_chunk (key : Lanes32) (msg : List Byte) : deliveredMessage (chunk key msg) = msg := by
  have hbeats : (chunkBeats msg).map (fun b => deliveredBytes (beatPort b key)) = chunkBeats msg :=
    (List.map_congr_left fun _ hb => deliveredBytes_beatPort (length_of_mem_chunkBeats hb) key).trans
      (List.map_id' _)
  rw [deliveredMessage, chunk, List.flatMap_map, List.flatMap_def, hbeats, chunkBeats_flatten]

/-! AUTH (R106). -/

theorem map_offeredCommand_chunk (key : Lanes32) (msg : List Byte) :
    (chunk key msg).map offeredCommand =
      List.replicate (msg.length / 16) (some .update16) ++
        (if msg.length % 16 ≠ 0 then [some (.update (BitVec.ofNat 4 (msg.length % 16)))] else []) := by
  have hoffer : (chunk key msg).map offeredCommand =
      ((chunkBeats msg).map List.length).map fun n => some (updateOf n) := by
    simp [chunk, offeredCommand_beatPort]
  have hrest : updateOf (msg.length % 16) = .update (BitVec.ofNat 4 (msg.length % 16)) :=
    updateOf_of_lt (by omega)
  rw [hoffer, map_length_chunkBeats, List.map_append, List.map_replicate, updateOf_sixteen, apply_ite (List.map _),
    List.map_singleton, List.map_nil, hrest]

theorem map_offeredCommand_auth (key : Lanes32) (msg : List Byte) :
    (auth key msg).map offeredCommand = some .init :: ((chunk key msg).map offeredCommand ++ [some .final]) := by
  simp [auth, initPort, finalPort, offeredCommand_commandPort]

theorem chunk_length (key : Lanes32) (msg : List Byte) : (chunk key msg).length = (msg.length + 15) / 16 := by
  have h := congrArg List.length (map_offeredCommand_chunk key msg)
  rw [List.length_map, List.length_append, List.length_replicate, apply_ite List.length, List.length_singleton,
    List.length_nil] at h
  rw [h]
  split <;> omega

theorem auth_length (key : Lanes32) (msg : List Byte) : (auth key msg).length = 1 + (chunk key msg).length + 1 := by
  simp [auth, Nat.add_comm]

theorem runScript_auth {s : State} {key : Lanes32} {msg : List Byte} {rest : List Port}
    (hs : s.script = auth key msg ++ rest) :
    ∃ t, runScript (auth key msg).length s = .next t ∧ tagOutBytes t = mac key msg ∧ t.tv = true ∧
      t.live = false ∧ t.script = rest := by
  have hcut : s.script = [] ++ initPort 0#128 0#256 ::
      (chunk key msg ++ finalPort 0#128 key :: ([] ++ rest)) := by
    rw [hs]
    simp [auth]
  have hrun := runScript_message (List.forall_mem_nil _) (offeredCommand_commandPort .init 0#128 0#256)
    chunk_inMessage (offeredCommand_commandPort .final 0#128 key) rfl (List.forall_mem_nil _) hcut
  rwa [deliveredMessage_chunk, List.length_nil, Nat.zero_add, Nat.add_zero, ← auth_length] at hrun

/-- Settles O46: the lengths of the beats give the commands and their number, and AUTH is a script of R108 whose
beats deliver the message. -/
theorem authComputesMac : Obligations.AuthComputesMac := by
  intro s key msg rest hs
  refine ⟨?commands, ?count, runScript_auth hs⟩
  case commands => rw [map_offeredCommand_auth, map_offeredCommand_chunk, List.append_assoc]
  case count =>
    rw [auth_length, chunk_length]
    omega

end Sys2Proof.Machine
end

section
/-! PROOFS. The meanings of the commands register by register (R98 to R102), and that every command completes (R97,
R111, R140). -/

namespace Sys2Proof.Machine

open Certificates

/-! Completion. -/

/-- Settles O9: every command answers a next state, and the one refusal of a step names a reserved word, which the
host does not present. -/
theorem everyCommandCompletes : Obligations.EveryCommandCompletes := by
  refine ⟨exec_completes, fun s hs => ?_⟩
  rcases hstep : step s with t | r | r
  · exact ⟨t, rfl⟩
  · cases r
  · obtain ⟨-, hrefused⟩ := reservedWordsAreRefused
    obtain ⟨p, rest, hscript, hr, hv, hundefined⟩ := hrefused s r hstep
    have hwellFormed := hs p rest hscript
    simp [Port.wellFormed, hr, hv, hundefined] at hwellFormed

/-! NOP and INIT. -/

/-- Settles O13: NOP's meaning is the state itself. -/
theorem nopChangesNothing : Obligations.NopChangesNothing := ⟨rfl, exec_nop⟩

theorem startMessage_startMessage (s : State) : startMessage (startMessage s) = startMessage s := rfl

theorem startMessage_buf_getElem (s : State) (j : Fin 15) : (startMessage s).buf[j] = 0#8 :=
  fillBuf_getElem_of_length_le j.isLt (Nat.zero_le j)

theorem statusOut_startMessage (s : State) : statusOut (startMessage s) = 0b010000#6 := by
  rw [statusOut, startMessage_tv, startMessage_live, startMessage_buflen]
  decide

/-- Settles O14: INIT writes constants, so a second one writes the same. -/
theorem initStartsFreshMessage : Obligations.InitStartsFreshMessage := by
  refine ⟨rfl, fun s => ⟨startMessage s, exec_init s, rfl, rfl, startMessage_buf_getElem s, rfl, rfl, rfl, rfl,
    exec_sameInputs (exec_init s), rfl, statusOut_startMessage s, ?twice⟩⟩
  case twice => rw [exec_init, startMessage_startMessage]

/-! UPDATE on a live state (R100). -/

/-- BLOCKINT of bytes given by their positions. -/
theorem blockInt_map_range (f : Nat → Byte) (n : Nat) :
    blockInt ((List.range n).map f) = sumOfBytes f n + 2 ^ (8 * n) := by
  rw [blockInt, le_map_range, List.length_map, List.length_range]

theorem gatheredBytes_take (n : Nat) (s : State) {k : Nat} (hk : k ≤ s.buflen.toNat + n) :
    (gatheredBytes n s).take k = (List.range k).map (arrivedByte s) := by
  rw [← map_arrivedByte_gathered, ← List.map_take, List.take_range, Nat.min_eq_left hk]

theorem gatheredBytes_getD (n : Nat) (s : State) (j : Nat) :
    (gatheredBytes n s).getD j 0 = if j < s.buflen.toNat + n then arrivedByte s j else 0#8 := by
  rw [← map_arrivedByte_gathered]
  split
  case isTrue hj => simp [hj]
  case isFalse hj => exact List.getD_eq_default _ _ (by simpa using hj)

section
variable {n : Nat} {s : State}

theorem updateLive_acc_of_full (h : 16 ≤ s.buflen.toNat + n) :
    (updateLive n s).acc.toNat =
      (s.acc.toNat + (sumOfBytes (arrivedByte s) 16 + 2 ^ 128)) * (multiplier s.port.key).toNat % prime := by
  rw [updateLive_acc, absorbFirst_full (by rwa [gatheredBytes_length]), gatheredBytes_take n s h,
    blockInt_map_range, absorb_eq]

/-- With a full block BUF holds the bytes of T from index 16 on. -/
theorem updateLive_buf_of_full (h : 16 ≤ s.buflen.toNat + n) (j : Fin 15) :
    (updateLive n s).buf[j] = if j.val < s.buflen.toNat + n - 16 then arrivedByte s (16 + j.val) else 0#8 := by
  have hrest : leftover (gatheredBytes n s) = (gatheredBytes n s).drop 16 :=
    if_pos (by rwa [gatheredBytes_length])
  have hindex : 16 + j.val < s.buflen.toNat + n ↔ j.val < s.buflen.toNat + n - 16 := by omega
  rw [updateLive_buf, Fin.getElem_fin, fillBuf_getElem, hrest, List.getD_eq_getElem?_getD, List.getElem?_drop,
    ← List.getD_eq_getElem?_getD, gatheredBytes_getD]
  simp only [hindex]

/-- Without one BUF holds all of T. -/
theorem updateLive_buf_of_short (h : s.buflen.toNat + n < 16) (j : Fin 15) :
    (updateLive n s).buf[j] = if j.val < s.buflen.toNat + n then arrivedByte s j.val else 0#8 := by
  rw [updateLive_buf, Fin.getElem_fin, fillBuf_getElem, leftover_of_short (by rwa [gatheredBytes_length]),
    gatheredBytes_getD]

end

/-- Settles O15: T is the bytes that arrived, position by position, of which a full block goes into ACC and the rest
into BUF. -/
theorem updateFoldsBeatIntoAccumulator : Obligations.UpdateFoldsBeatIntoAccumulator := by
  intro i s hi hl
  have hexec := exec_update_of_live hi hl
  have hbuflen := updateLive_buflen_toNat (beatLength_le i) s
  have hbeat := beatLength_le i
  have hpending := s.buflen.isLt
  refine ⟨encode_toNat_of_isUpdate hi, hbeat, updateLive i.beatLength s, hexec, rfl, ?registers, hl, rfl, rfl,
    exec_sameInputs hexec, rfl⟩
  split
  case isTrue hfull => exact ⟨updateLive_acc_of_full hfull, by omega, updateLive_buf_of_full hfull⟩
  case isFalse hshort =>
    have hshort := Nat.lt_of_not_le hshort
    exact ⟨updateLive_acc_of_short hshort, by omega, updateLive_buf_of_short hshort⟩

/-! FINAL on a live state (R101). -/

/-- What FINAL hands to the finalizer, by the bytes that arrived. -/
theorem closingAcc_eq_ite (s : State) :
    closingAcc s =
      if 0 < s.buflen.toNat then
        (s.acc.toNat + (sumOfBytes (arrivedByte s) s.buflen.toNat + 2 ^ (8 * s.buflen.toNat))) *
          (multiplier s.port.key).toNat % prime
      else s.acc.toNat := by
  rw [closingAcc, ← map_arrivedByte_pending, blockInt_map_range, absorb_eq]

/-- Settles O16: the finalizer reduces the closing accumulator and adds s, and its tag is laid on the lanes of TAG. -/
theorem finalProducesTag : Obligations.FinalProducesTag := by
  refine ⟨rfl, fun s hl => ⟨closeMessage s, exec_final s, ?tag, rfl, rfl, exec_sameInputs (exec_final s)⟩⟩
  rw [closeMessage_tag_of_live hl, closingTag_toNat, closingAcc_eq_ite]
  rfl

/-! UPDATE and FINAL with LIVE = 0 (R102). -/

/-- Settles O17: of what these commands write there, only RC and the flags are fixed. -/
theorem spentStateCommandsComplete : Obligations.SpentStateCommandsComplete := by
  constructor
  · intro i s hi hl
    have hexec : exec i s = .next (updateSpent i.beatLength s) := by
      rw [exec_of_isUpdate hi, updateBeat_of_spent hl]
    exact ⟨updateSpent i.beatLength s, hexec, rfl, hl, rfl, rfl, exec_sameInputs hexec⟩
  · intro s _
    exact ⟨closeMessage s, exec_final s, rfl, rfl, exec_sameInputs (exec_final s)⟩

end Sys2Proof.Machine
end

section
/-! PROOFS. Reset beside whatever is offered (R116, R125, R126), and one event among several instances (R122). -/

namespace Sys2Proof.Machine

/-! Reset. -/

/-- Whatever the other pins hold (R116). -/
theorem step_reset {s : State} {p : Port} {rest : List Port} (hs : s.script = p :: rest) (hr : p.rst = true) :
    step s = .next (resetRegisters (present p rest s)) := by
  rw [step_cons hs, accept_reset (s := present p rest s) hr]

/-- Settles O8: the step is the reset of the registers, which writes 0 to both flags. -/
theorem resetClearsBothFlags : Obligations.ResetClearsBothFlags :=
  fun s p rest hs hr =>
    ⟨resetRegisters (present p rest s), step_reset hs hr, resetRegisters_live _, resetRegisters_tv _, rfl⟩

/-! Several instances. -/

theorem stepInstance_of_absent {k : Nat} {all : Instances} (hk : all[k]? = none) :
    stepInstance k all = .next all := by
  simp [stepInstance, hk]

theorem stepInstance_of_next {k : Nat} {all : Instances} {s t : State} (hk : all[k]? = some s)
    (h : step s = .next t) : stepInstance k all = .next (all.set k t) := by
  simp [stepInstance, hk, h]

theorem stepInstance_of_refused {k : Nat} {all : Instances} {s : State} {r : Refusal} (hk : all[k]? = some s)
    (h : step s = .refused r) : stepInstance k all = .refused r := by
  simp [stepInstance, hk, h]

/-- Everything an event at instance k can do when the system is not refused. -/
theorem stepInstance_cases {k : Nat} {all all' : Instances} (h : stepInstance k all = .next all') :
    (all[k]? = none ∧ all' = all) ∨
    (∃ s t, all[k]? = some s ∧ step s = .next t ∧ all' = all.set k t) := by
  rcases hk : all[k]? with _ | s
  · rw [stepInstance_of_absent hk, Host.Outcome.next.injEq] at h
    exact .inl ⟨rfl, h.symm⟩
  · rcases hstep : step s with t | r | r
    · rw [stepInstance_of_next hk hstep, Host.Outcome.next.injEq] at h
      exact .inr ⟨s, t, rfl, hstep, h.symm⟩
    · cases r
    · rw [stepInstance_of_refused hk hstep] at h
      cases h

/-- Settles O49: an event at k writes place k of the list of instances, or nothing. -/
theorem instancesShareNothing : Obligations.InstancesShareNothing := by
  refine fun k all => ⟨fun s t hk hstep => ?own, fun all' h => ?others⟩
  case own =>
    obtain ⟨hlt, -⟩ := List.getElem?_eq_some_iff.mp hk
    exact ⟨all.set k t, stepInstance_of_next hk hstep, List.getElem?_set_self hlt⟩
  case others =>
    obtain ⟨-, rfl⟩ | ⟨s, t, -, -, rfl⟩ := stepInstance_cases h
    · exact ⟨rfl, fun _ _ => rfl⟩
    · exact ⟨List.length_set, fun j hj => List.getElem?_set_ne hj.symm⟩

end Sys2Proof.Machine
end

section
/-! PROOFS. The decoder's answers word by word (section 2.6 of the test vectors): a reserved word decodes to the
range that holds it (R55, R56). -/

namespace Sys2Proof

theorem eq_reservedRange_of_decode {w : CommandWord} {r : Reserved} (h : decode w = .error r) :
    r = reservedRange w := by
  unfold decode at h
  iterate 5
    split at h
    case isTrue => cases h
  exact (Except.error.inj h).symm

theorem decode_of_reserved {w : CommandWord} (h : w.defined = false) : decode w = .error (reservedRange w) := by
  obtain ⟨r, hr⟩ := (defined_eq_false_iff w).mp h
  rw [hr, eq_reservedRange_of_decode hr]

/-- Settles O1: seven of the words are encodings, and eight are reserved words of the ranges named. -/
theorem decoderReadsWrittenOutWords : Obligations.DecoderReadsWrittenOutWords :=
  ⟨decode_encode .nop, decode_encode .init,
    decode_encode (.update 0#4), decode_encode (.update 1#4), decode_encode (.update 15#4),
    decode_encode .update16, decode_encode .final,
    decode_of_reserved rfl, decode_of_reserved rfl, decode_of_reserved rfl, decode_of_reserved rfl,
    decode_of_reserved rfl, decode_of_reserved rfl, decode_of_reserved rfl, decode_of_reserved rfl⟩

end Sys2Proof
end

section
/-! PROOFS. The reset state and the invariant of the registers (R28, R125). -/

namespace Sys2Proof.Machine

@[simp] theorem reset_live : State.reset.live = false := rfl

/-- Settles O11: after reset LIVE = 0, and then the invariant asks nothing of the registers that the spec leaves
unspecified. -/
theorem resetStateIsSound : Obligations.ResetStateIsSound := sound_of_spent reset_live

end Sys2Proof.Machine
end

section
/-! PROOFS. The source's own vector, block by block, with the intermediate values of section 1.2 of the test
vectors. -/

namespace Sys2Proof.Machine.SourceVector

def key : Lanes32 := 0x1bf54941aff6bf4afdb20dfb8a800301a806d542fe52447f336d555778bed685#256

def message : List Byte :=
  [0x43#8, 0x72#8, 0x79#8, 0x70#8, 0x74#8, 0x6f#8, 0x67#8, 0x72#8, 0x61#8, 0x70#8, 0x68#8, 0x69#8,
   0x63#8, 0x20#8, 0x46#8, 0x6f#8, 0x72#8, 0x75#8, 0x6d#8, 0x20#8, 0x52#8, 0x65#8, 0x73#8, 0x65#8,
   0x61#8, 0x72#8, 0x63#8, 0x68#8, 0x20#8, 0x47#8, 0x72#8, 0x6f#8, 0x75#8, 0x70#8]

/-- rc of section 1.2. -/
def rc : Nat := 0x0806d5400e52447c036d555408bed685

theorem multiplier_key : (multiplier key).toNat = rc := by decide

theorem keyS_key : (keyS key).toNat = 0x1bf54941aff6bf4afdb20dfb8a800301 := by decide

theorem blockInt_first : blockInt (messageBlock message 0) = 0x16f4620636968706172676f7470797243 := by decide

theorem blockInt_second : blockInt (messageBlock message 1) = 0x16f7247206863726165736552206d7572 := by decide

theorem blockInt_tail : blockInt (tailBytes message) = 0x17075 := by decide

theorem chainValue_one : chainValue rc message 1 = 0x2c88c77849d64ae9147ddeb88e69c83fc := by
  rw [chainValue, chainValue, blockInt_first]
  decide

theorem chainValue_two : chainValue rc message 2 = 0x2d8adaf23b0337fa7cccfb4ea344b30de := by
  rw [chainValue, chainValue_one, blockInt_second]
  decide

theorem messageValue_message : messageValue rc message = 0x28d31b7caff946c77c8844335369d03a7 := by
  have hpartial : message.length % 16 ≠ 0 := by decide
  have hfull : message.length / 16 = 2 := rfl
  rw [messageValue, if_pos hpartial, hfull, chainValue_two, blockInt_tail]
  decide

theorem mac_eq_tagOf :
    mac key message = tagOf 0x28d31b7caff946c77c8844335369d03a7 0x1bf54941aff6bf4afdb20dfb8a800301 := by
  rw [mac, multiplier_key, messageValue_message, keyS_key]

/-- Settles O47: the two full blocks and the partial one bring the accumulator to the value a of section 1.2, whose
tag under s is the source's. -/
theorem sourceVectorReproduces : Obligations.SourceVectorReproduces :=
  mac_eq_tagOf.trans (by decide)

end Sys2Proof.Machine.SourceVector
end
